-- ==== Sys2Proof/Word.lean ====
section
/-!
DEFINITION. The plain values the block is made of (rules R5 and R6 of spec/00_scope.md): bytes, the
32-bit checksum words and the 48-bit header fields. Lengths, offsets and counts are `Nat` and never
wrap (R6, R163).
-/

namespace Sys2Proof

/-- A byte: eight bits (R5, decision D18 of the spec). -/
abbrev Byte := BitVec 8

/-- `u32`, the width of every checksum value and table entry (R6, R13, R75). -/
abbrev U32 := BitVec 32

/-- `u48`, the width of the two numeric header fields of a frame (R6, R52, R53). -/
abbrev U48 := BitVec 48

end Sys2Proof
end

