-- ==== Sys2Proof/Config.lean ====
section
/-!
DEFINITION. What is fixed for the block: the constants of the wire format (R10) and of the checksum
unit (R13), which are not parameters (R4), and the two open parameters of R4.
-/

namespace Sys2Proof

/-- The start-of-frame marker, `magicBytes` of the source (R10, R51). -/
def magic : List Byte :=
  [0x00, 0x01, 0x01, 0x02, 0x03, 0x05, 0x08, 0x0D, 0x15, 0x22]

/-- `MAGIC_LEN` (R10). -/
@[simp] abbrev magicLen : Nat := 10

/-- `LEN_OFF`, the offset of the length field (R10). -/
@[simp] abbrev lenOff : Nat := 10

/-- `LEN_SIZE`, the bytes of the length field (R10). -/
@[simp] abbrev lenSize : Nat := 6

/-- `CK_OFF`, the offset of the checksum field (R10). -/
@[simp] abbrev ckOff : Nat := 16

/-- `CK_SIZE`, the bytes of the checksum field (R10). -/
@[simp] abbrev ckSize : Nat := 6

/-- `HEADER_LEN`, `headerLength` of the source: the size of the header, the offset of the payload (R10). -/
@[simp] abbrev headerLen : Nat := 22

/-- `TAIL_KEEP`, the bytes kept when a buffer out of synchronisation holds no magic (R10). -/
@[simp] abbrev tailKeep : Nat := 9

/-- `MAX_LEN`, the least payload length the encoder turns away (R10). -/
@[simp] abbrev maxLen : Nat := 2 ^ 48

/-- `POLY` (R13). -/
def poly : U32 := 0xEDB88320

/-- `CRC_INIT` (R13). -/
def crcInit : U32 := 0xFFFFFFFF

/-- `CRC_XOROUT` (R13). -/
def crcXorOut : U32 := 0xFFFFFFFF

/-- The open parameters of R4. `none` is the spec's default, unbounded. They stand in State as data
that no operation writes, so that every statement holds for every value (log entry 5). -/
structure Params where
  /-- `PENDING_CAP`: the greatest `len(pending)` the block can hold (R4, R44). -/
  pendingCap : Option Nat
  /-- `CHUNK_MAX`: the greatest length of one operand (R4). -/
  chunkMax : Option Nat
deriving DecidableEq, Repr

/-- The default of R4: both unbounded, which R44 calls exact for the source. -/
def Params.unbounded : Params := { pendingCap := none, chunkMax := none }

end Sys2Proof
end

