-- ==== Sys2Proof/Syntax.lean ====
section
/-!
DEFINITION. The operations, one constructor for each row of spec/opcode_table.json: the four commands of
R3 and R56 and the frame on the wire of R50.
-/

namespace Sys2Proof

/-- The two formats of spec/opcode_table.json (its key "format"). -/
inductive Format where
  /-- A command: one code byte and the operand bytes after it (R56). -/
  | cmd
  /-- A frame on the wire (R50). -/
  | wire
deriving DecidableEq, Repr

/-- The rows of spec/opcode_table.json. -/
inductive Instr where
  /-- `CRC.COMPUTE bytes`, code 0x01 (R74). -/
  | crcCompute (bytes : List Byte)
  /-- `ENC.ENCODE payload`, code 0x02 (R90). -/
  | encEncode (payload : List Byte)
  /-- `RX.FEED chunk`, code 0x03 (R101). -/
  | rxFeed (chunk : List Byte)
  /-- `RX.CLEAR`, code 0x04 (R100). -/
  | rxClear
  /-- `FRAME`, one frame on the wire with its length and checksum fields and its payload (R50). -/
  | frame (length checksum : U48) (payload : List Byte)
deriving DecidableEq, Repr

end Sys2Proof
end

