-- ==== Sys2Proof/WellFormed.lean ====
section
/-!
DEFINITION. Which terms of `Instr` stand for something the spec can write down.
-/

namespace Sys2Proof

/-- A command takes an operand of any length, empty included (R56, R74, R90, R101). A frame's payload
has exactly as many bytes as its length field says (R52, R54). -/
def Instr.wf : Instr → Bool
  | .crcCompute _ => true
  | .encEncode _ => true
  | .rxFeed _ => true
  | .rxClear => true
  | .frame length _ payload => payload.length == length.toNat

end Sys2Proof
end

