-- ==== Sys2Proof/Decode.lean ====
section
/-!
DEFINITION. Byte sequences and byte order (R7, R32), the layout of a frame (R50), the decoder of both
formats of the opcode table, total on any bytes and turning away by name, and the encoder beside it.
-/

namespace Sys2Proof

/-! ### Byte sequences and byte order -/

/-- `s[i:j]` (R7): the bytes at offsets `i` up to but not including `j`. -/
def slice (s : List Byte) (i j : Nat) : List Byte := (s.drop i).take (j - i)

/-- The number the byte at offset `i` holds. -/
def byteVal (s : List Byte) (i : Nat) : Nat := (s.getD i 0).toNat

/-- `le48(s)` for a sequence of six bytes: the byte at the lowest offset is the least significant (R7, R32). -/
def le48 (s : List Byte) : Nat :=
  byteVal s 0 + 2 ^ 8 * byteVal s 1 + 2 ^ 16 * byteVal s 2 + 2 ^ 24 * byteVal s 3
    + 2 ^ 32 * byteVal s 4 + 2 ^ 40 * byteVal s 5

/-- `enc_le48(v)` for `v < 2^48` (R7, R32): the six bytes `v[7:0]`, `v[15:8]`, … `v[47:40]`. -/
def encLe48 (v : Nat) : List Byte :=
  [BitVec.ofNat 8 v, BitVec.ofNat 8 (v / 2 ^ 8), BitVec.ofNat 8 (v / 2 ^ 16),
   BitVec.ofNat 8 (v / 2 ^ 24), BitVec.ofNat 8 (v / 2 ^ 32), BitVec.ofNat 8 (v / 2 ^ 40)]

/-! ### The layout of a frame (R50) -/

/-- The bytes of a frame with the given length field, checksum field and payload (R50). -/
def frameBytes (length checksum : Nat) (payload : List Byte) : List Byte :=
  magic ++ encLe48 length ++ encLe48 checksum ++ payload

/-- The length field of the frame at the front of `p`, `le48(p[10:16])` (R52, R108). -/
def lengthField (p : List Byte) : Nat := le48 (slice p lenOff (lenOff + lenSize))

/-- The checksum field of the frame at the front of `p`, all six bytes: `le48(p[16:22])` (R53, R108). -/
def checksumField (p : List Byte) : Nat := le48 (slice p ckOff (ckOff + ckSize))

/-! ### Decoding -/

/-- Why bytes are no operation. -/
inductive DecodeError where
  /-- A command with no code byte. Safe: the block has no step for it. -/
  | noCode
  /-- A reserved command code, 0x00 and 0x05 to 0xFF (R58). Safe: no step, no state change, no response. -/
  | reservedCode (code : Byte)
  /-- `RX.CLEAR` with bytes after its code; it takes no operand (R56, R100). Safe. -/
  | operandAfterClear (operand : List Byte)
  /-- Fewer than the 22 header bytes of a frame (R50). Safe: such bytes can still be fed in a chunk. -/
  | headerIncomplete
  /-- Bytes that do not begin with the magic sequence are no frame (R51, R58). Safe, as above. -/
  | notMagic
  /-- Fewer payload bytes than the length field says (R52, R54). Safe, as above. -/
  | payloadIncomplete
  /-- More bytes than the frame has (R55). Safe, as above. -/
  | bytesAfterFrame
deriving DecidableEq, Repr

/-- A command: the code of R56, then the operand. -/
def decodeCommand : List Byte → Except DecodeError Instr
  | [] => .error .noCode
  | code :: operand =>
    if code = 0x01 then .ok (.crcCompute operand)
    else if code = 0x02 then .ok (.encEncode operand)
    else if code = 0x03 then .ok (.rxFeed operand)
    else if code = 0x04 then
      match operand with
      | [] => .ok .rxClear
      | _ :: _ => .error (.operandAfterClear operand)
    else .error (.reservedCode code)

/-- A frame on the wire: exactly the bytes of one frame (R50, R55). -/
def decodeFrame (bytes : List Byte) : Except DecodeError Instr :=
  if bytes.length < headerLen then .error .headerIncomplete
  else if slice bytes 0 magicLen ≠ magic then .error .notMagic
  else if bytes.length < headerLen + lengthField bytes then .error .payloadIncomplete
  else if headerLen + lengthField bytes < bytes.length then .error .bytesAfterFrame
  else .ok (.frame (BitVec.ofNat 48 (lengthField bytes)) (BitVec.ofNat 48 (checksumField bytes))
    (bytes.drop headerLen))

/-- The decoder, for either format of spec/opcode_table.json. -/
def decode : Format → List Byte → Except DecodeError Instr
  | .cmd, bytes => decodeCommand bytes
  | .wire, bytes => decodeFrame bytes

/-! ### Encoding -/

/-- The format of each row of spec/opcode_table.json. -/
def formatOf : Instr → Format
  | .crcCompute _ => .cmd
  | .encEncode _ => .cmd
  | .rxFeed _ => .cmd
  | .rxClear => .cmd
  | .frame _ _ _ => .wire

/-- The bytes of an operation (R50, R56). -/
def encode : Instr → List Byte
  | .crcCompute bytes => 0x01 :: bytes
  | .encEncode payload => 0x02 :: payload
  | .rxFeed chunk => 0x03 :: chunk
  | .rxClear => [0x04]
  | .frame length checksum payload => frameBytes length.toNat checksum.toNat payload

/-! ### The host's table words -/

/-- The `k` low bytes of `w`, the least significant first. -/
def lowBytes : Nat → Nat → List Byte
  | 0, _ => []
  | k + 1, w => BitVec.ofNat 8 w :: lowBytes k (w / 2 ^ 8)

/-- The bytes of a table word of a frame, with zeros for the header and payload bytes that it gives no bits. -/
def padFrame (bytes : List Byte) : List Byte :=
  let header := bytes ++ List.replicate (headerLen - bytes.length) 0
  header ++ List.replicate (headerLen + lengthField header - header.length) 0

/-- The format and bytes of a table word. The byte in bits 7..0 comes first; the table writes the row
FRAME the other way, byte 0 leftmost, so a word whose ten leftmost bytes are the magic sequence is laid
out from its most significant byte (log entry 4). -/
def tableBytes (nbits w : Nat) : Format × List Byte :=
  let bytes := lowBytes ((nbits + 7) / 8) w
  if bytes.take magicLen = magic then (.wire, padFrame bytes)
  else if bytes.reverse.take magicLen = magic then (.wire, padFrame bytes.reverse)
  else (.cmd, bytes)

/-- The instruction the decoder reads from a table word. -/
def decodeTableWord (nbits w : Nat) : Option Instr :=
  match decode (tableBytes nbits w).1 (tableBytes nbits w).2 with
  | .ok i => some i
  | .error _ => none

end Sys2Proof
end

