-- ==== Sys2Proof/Machine/State.lean ====
section
/-!
DEFINITION. The state of one block, its results and responses, the ways a step can stop, and reset.
-/

namespace Sys2Proof.Machine

/-- The three errors of R130. They are values the block answers with, never traps (R134). -/
inductive FrameError where
  /-- `PayloadTooLarge`, of `ENC.ENCODE` (R91, R131). -/
  | payloadTooLarge
  /-- `DesyncDiscarded`, with the number of bytes discarded, a `Nat` that is never cut short (R132, R163). -/
  | desyncDiscarded (count : Nat)
  /-- `ChecksumMismatch`, which carries nothing (R133). -/
  | checksumMismatch
deriving DecidableEq, Repr

/-- A result value (R9, R57). -/
inductive Result where
  /-- `Ok`: the frame of an `ENC.ENCODE`, a payload of an `RX.FEED`. -/
  | ok (bytes : List Byte)
  /-- `Err`. -/
  | err (e : FrameError)
deriving DecidableEq, Repr

/-- What an operation answers with (R9, R56). `RX.CLEAR` answers with nothing (R100). -/
inductive Response where
  /-- The `u32` of `CRC.COMPUTE`. -/
  | checksum (value : U32)
  /-- The one value of `ENC.ENCODE`. -/
  | encoded (result : Result)
  /-- The ordered result sequence of `RX.FEED`. -/
  | received (results : List Result)
deriving DecidableEq, Repr

/-- What the host may do to the block next (R145, R150). -/
inductive PortEvent where
  /-- Hand over the bytes of one operation. `inProgress` lists the operations the host issued earlier that
  have not returned at that moment. `CRC.COMPUTE` and `ENC.ENCODE` may stand in it beside anything (R40);
  one on the block's buffer the host is told not to let stand there (R153; log entry 9). -/
  | issue (format : Format) (bytes : List Byte) (inProgress : List Instr)
  /-- Reset the block (R150, R151). -/
  | reset
deriving DecidableEq, Repr


/-- The state of one block. `pending` is the block's only state that survives an operation (R17);
`response` and `port` are the model's own, the two ports of decision D2 of the spec (log entries 1 and
2); `params` holds the open parameters of R4 (log entry 5). -/
structure State where
  /-- The reassembly buffer, its front first (R17, R31). -/
  pending : List Byte
  /-- What the last step answered to the host: the response of the operation it performed (R56), `none`
  when that has none (R100) and when it performed none (R150). The next step takes it away: results already
  handed over are no state (R24; log entry 2). -/
  response : Option Response
  /-- What the host has asked for and the block has not taken yet, the oldest first (R38). -/
  port : List PortEvent
  /-- The parameters of R4. No step writes them. -/
  params : Params
deriving DecidableEq, Repr

/-- The block has no trap: no input makes it stop or leaves its state unknown (R134, R135). So there is no
reason for a fault. -/
inductive Fault where
deriving DecidableEq, Repr

/-- What the block has no step for. -/
inductive Refusal where
  /-- An instruction whose meaning is not written yet; raised by exec's arm alone. Safe. -/
  | notModelled (mnemonic : String)
  /-- Bytes at the command port that are no operation, a reserved code among them (R58); raised by the
  fetch. Safe: the spec gives such bytes no step. -/
  | undecodable (why : DecodeError)
  /-- An operation on a buffer on which another is still in progress (R153, R40); raised by the issue of
  `RX.FEED`, `RX.CLEAR` and `FRAME`. Safe: the spec gives it no meaning and has a model refuse it. -/
  | overlappingOperation
  /-- An operand longer than a finite `CHUNK_MAX` (R4); raised by `CRC.COMPUTE`, `ENC.ENCODE`, `RX.FEED`
  and `FRAME`. Safe: the spec has a model refuse it. -/
  | operandTooLong
  /-- A chunk that would pass a finite `PENDING_CAP` (R44); raised by `RX.FEED` and `FRAME`. Safe: the
  spec gives it no meaning and has a model refuse it. -/
  | pendingCapExceeded
deriving DecidableEq, Repr

/-- The block right after reset: an empty buffer, no result outstanding, nothing asked for (R150), and the
default parameters (R4). -/
def State.reset : State :=
  { pending := [], response := none, port := [], params := Params.unbounded }

end Sys2Proof.Machine
end

