-- ==== Sys2Proof/Machine/Ops.lean ====
section
/-!
DEFINITION. The named operations over the state: the reassembly buffer (R8, R31), the response port, the
error values (R8, R134) and reset (R150). There is no trap to take and no return from one (R134, R139):
raising an error makes a result value and nothing else.
-/

namespace Sys2Proof.Machine

/-! ### The reassembly buffer (R8, R31, R124) -/

/-- `MemRead(addr, n) = pending[addr : addr+n]` (R8). Every rule that reads has the bytes present (R35). -/
def memRead (p : List Byte) (addr n : Nat) : List Byte := slice p addr (addr + n)

/-- `Append(chunk)`: bytes enter only at the back (R31). -/
def append (p chunk : List Byte) : List Byte := p ++ chunk

/-- `DropFront(n)`: bytes leave only from the front (R31). -/
def dropFront (p : List Byte) (n : Nat) : List Byte := p.drop n

/-! ### Results (R8, R134) -/

/-- `raise E`: the error as a result value. It changes no state and transfers no control (R8, R134). -/
def raise (e : FrameError) : Result := .err e

/-- `emit`: appends what one iteration produced to the result sequence of the operation (R8, R114). -/
def emit (results : List Result) (out : Option Result) : List Result := results ++ out.toList

/-- The tag of a result value (R57). -/
def resultTag : Result → Nat
  | .ok _ => 0
  | .err .payloadTooLarge => 1
  | .err (.desyncDiscarded _) => 2
  | .err .checksumMismatch => 3

/-! ### The state -/

/-- `pending <- p`. -/
def State.setPending (s : State) (p : List Byte) : State := { s with pending := p }

/-- Ends an operation: `r` is its response (R8, R9). -/
def State.respond (s : State) (r : Response) : State := { s with response := some r }

/-- The host's request at the front of the port is taken. -/
def State.setPort (s : State) (port : List PortEvent) : State := { s with port := port }

/-- Ends a step that has no response: an operation without one (R100), or no operation. -/
def State.respondNothing (s : State) : State := { s with response := none }

/-- What a reset does to the block: the buffer is empty and no result is outstanding (R150, R151). What the
host asks for afterwards and the parameters of the block are not the reset's (log entry 11). -/
def State.clearInstance (s : State) : State := (s.setPending []).respondNothing

end Sys2Proof.Machine
end

