-- ==== Sys2Proof/Machine/Operands.lean ====
section
/-!
DEFINITION. The one operand form, a byte sequence of any length (R56), and the bounds that the open
parameters of R4 put on it when they are finite.
-/

namespace Sys2Proof.Machine

/-- Whether a length is within a bound; `none` is no bound (R4). -/
def within (bound : Option Nat) (n : Nat) : Bool :=
  match bound with
  | none => true
  | some b => decide (n ≤ b)

/-- Whether an operand is within `CHUNK_MAX` (R4). -/
def operandFits (P : Params) (operand : List Byte) : Bool := within P.chunkMax operand.length

/-- Whether a chunk leaves `len(pending) + len(chunk)` within `PENDING_CAP` (R44). -/
def chunkFits (P : Params) (p chunk : List Byte) : Bool :=
  within P.pendingCap (p.length + chunk.length)

end Sys2Proof.Machine
end

