-- ==== Sys2Proof/Machine/Enc.lean ====
section
/-!
DEFINITION. The encoder unit: `ENC.ENCODE` (R90, R91, R92).
-/

namespace Sys2Proof.Machine

/-- `Encode(payload)` (R90). The length is tested as a `Nat`, before anything is produced (R91). -/
def encodeFrame (payload : List Byte) : Result :=
  if maxLen ≤ payload.length then raise .payloadTooLarge
  else .ok (frameBytes payload.length (compute payload).toNat payload)

/-- `ENC.ENCODE payload` (R90): answers with the frame or the error and writes no state (R92). -/
def execEncEncode (payload : List Byte) (s : State) : Host.Outcome State Fault Refusal :=
  if operandFits s.params payload then .next (s.respond (.encoded (encodeFrame payload)))
  else .refused .operandTooLong

end Sys2Proof.Machine
end

