-- ==== Sys2Proof/Machine/Flags.lean ====
section
/-!
DEFINITION. The block has no flags (R22). In their place stand the two comparisons it makes, used at once
and stored nowhere, and the control an iteration ends with (R21).
-/

namespace Sys2Proof.Machine

/-- `p[0:10] == MAGIC`, all ten bytes (R104). -/
def magicAtFront (p : List Byte) : Bool := memRead p 0 magicLen == magic

/-- `zext_48(actual) == C`, a comparison of numbers: a claimed value of 2^32 or more never matches (R112). -/
def checksumMatches (actual : U32) (claimed : Nat) : Bool := actual.toNat == claimed

/-- What an iteration of `RX.FEED` ends with (R8): another iteration, or the end of the operation. -/
inductive Control where
  /-- `continue` -/
  | again
  /-- `stop` -/
  | stop
deriving DecidableEq, Repr

end Sys2Proof.Machine
end

