-- ==== Sys2Proof/Machine/Rx.lean ====
section
/-!
DEFINITION. The receiver unit: the iteration and its seven steps (R102 to R112), the loop (R101), and the
operations `RX.FEED` and `RX.CLEAR`, with the frame on the wire (R50) that the receiver decodes.
-/

namespace Sys2Proof.Machine

/-- The scan: the offset of the first suffix of `p` that begins with the magic, the front of `p` being at offset `k`. -/
def scanFrom (k : Nat) : List Byte → Option Nat
  | [] => none
  | b :: rest => if magicAtFront (b :: rest) then some k else scanFrom (k + 1) rest

/-- `FindMagic(p)`: the least offset `k ≥ 1` with a whole occurrence of the magic in `p` (R105). -/
def findMagic (p : List Byte) : Option Nat := scanFrom 1 (p.drop 1)

/-- What one iteration returns: the new buffer, at most one result, and how to go on (R102). -/
structure Iteration where
  /-- The buffer after the iteration. -/
  buffer : List Byte
  /-- Its result, if any. -/
  out : Option Result
  /-- Whether another iteration follows. -/
  control : Control
deriving DecidableEq, Repr

/-- Step 2 out of synchronisation: outcomes RESYNC (R106) and DISCARD (R107). -/
def recover (p : List Byte) : Iteration :=
  match findMagic p with
  | some k => ⟨dropFront p k, some (raise (.desyncDiscarded k)), .again⟩
  | none =>
    ⟨dropFront p (p.length - tailKeep), some (raise (.desyncDiscarded (p.length - tailKeep))), .stop⟩

/-- Steps 5 to 7 on a whole frame: extraction (R110), consumption whatever the verdict (R111), and the
verdict, outcomes FRAME_OK and FRAME_BAD (R112). -/
def takeFrame (p : List Byte) : Iteration :=
  let payload := memRead p headerLen (lengthField p)
  let rest := dropFront p (headerLen + lengthField p)
  if checksumMatches (compute payload) (checksumField p) then ⟨rest, some (.ok payload), .again⟩
  else ⟨rest, some (raise .checksumMismatch), .again⟩

/-- One iteration, its steps in their order (R102): WAIT_HEADER (R103), the synchronisation test (R104),
the header parse (R108), WAIT_PAYLOAD (R109), and the frame. -/
def rxIter (p : List Byte) : Iteration :=
  if p.length < headerLen then ⟨p, none, .stop⟩
  else if !magicAtFront p then recover p
  else if p.length < headerLen + lengthField p then ⟨p, none, .stop⟩
  else takeFrame p

/-- The loop of R101 with a bound on its iterations. -/
def rxLoop : Nat → List Byte → List Result → List Byte × List Result
  | 0, p, results => (p, results)
  | fuel + 1, p, results =>
    let it := rxIter p
    match it.control with
    | .stop => (it.buffer, emit results it.out)
    | .again => rxLoop fuel it.buffer (emit results it.out)

/-- The loop of R101 on a buffer. R113 bounds its iterations by one more than the buffer's length. -/
def drain (p : List Byte) : List Byte × List Result := rxLoop (p.length + 1) p []

/-- `Feed(p, chunk)` (R101): the append comes first. -/
def feed (p chunk : List Byte) : List Byte × List Result := drain (append p chunk)

/-- The receiver takes one chunk: `(pending, results) <- Feed(pending, chunk)`, and the whole result
sequence is the response (R101, R115). A chunk that passes a finite bound has no step (R4, R44). -/
def receive (chunk : List Byte) (s : State) : Host.Outcome State Fault Refusal :=
  if operandFits s.params chunk then
    if chunkFits s.params s.pending chunk then
      .next ((s.setPending (feed s.pending chunk).1).respond (.received (feed s.pending chunk).2))
    else .refused .pendingCapExceeded
  else .refused .operandTooLong

/-- `RX.FEED chunk` (R101). -/
def execRxFeed (chunk : List Byte) (s : State) : Host.Outcome State Fault Refusal := receive chunk s

/-- `RX.CLEAR` (R100): `pending <- []`, no response, and nothing said of the bytes dropped. -/
def execRxClear (s : State) : Host.Outcome State Fault Refusal :=
  .next (s.setPending []).respondNothing

/-- `FRAME`: the table's row for the frame on the wire, which `RX.FEED` decodes (R50). Its effect is the
receiver's on the bytes of that one frame, handed over as one chunk (log entry 3). -/
def execFrame (length checksum : U48) (payload : List Byte) (s : State) :
    Host.Outcome State Fault Refusal :=
  receive (frameBytes length.toNat checksum.toNat payload) s

end Sys2Proof.Machine
end

