-- ==== Sys2Proof/Machine/Dispatch.lean ====
section
/-!
DEFINITION. One arm for each constructor of `Instr`.
-/

namespace Sys2Proof.Machine

def exec (i : Instr) (s : State) : Host.Outcome State Fault Refusal :=
  match i with
  | .crcCompute bytes => Sys2Proof.Machine.execCrcCompute bytes s
  | .encEncode payload => Sys2Proof.Machine.execEncEncode payload s
  | .rxFeed chunk => Sys2Proof.Machine.execRxFeed chunk s
  | .rxClear => Sys2Proof.Machine.execRxClear s
  | .frame length checksum payload => Sys2Proof.Machine.execFrame length checksum payload s

end Sys2Proof.Machine
end

