-- ==== Sys2Proof/Machine/Issue.lean ====
section
/-!
DEFINITION. How the block takes what the host asks for: there is no program counter and no fetch (R21);
operations are taken one at a time in the order they were issued (R38).
-/

namespace Sys2Proof.Machine

/-- Whether an operation works on the block's own buffer. `CRC.COMPUTE` and `ENC.ENCODE` touch no mutable
state and may be in progress beside anything (R40). -/
def onInstance : Instr → Bool
  | .crcCompute _ => false
  | .encEncode _ => false
  | .rxFeed _ => true
  | .rxClear => true
  | .frame _ _ _ => true

/-- Whether an operation would be the second one in progress on the buffer (R153): it works on the buffer,
and so does one of those that have not returned. -/
def overlaps (i : Instr) (inProgress : List Instr) : Bool := onInstance i && inProgress.any onInstance

/-- An operation is issued while others may be in progress. The second one on the buffer has no step (R153);
every other one runs, `RX.FEED` beside `CRC.COMPUTE` and `ENC.ENCODE` among them (R40). -/
def issue (i : Instr) (inProgress : List Instr) (s : State) : Host.Outcome State Fault Refusal :=
  if overlaps i inProgress then .refused .overlappingOperation else exec i s

/-- The block takes the oldest request at its port and performs it whole (R3, R38). With nothing asked for
it does nothing, as it never acts on its own (R136, R141; log entry 10), and answers nothing (R24). -/
def takeRequest (s : State) : Host.Outcome State Fault Refusal :=
  match s.port with
  | [] => .next s.respondNothing
  | .reset :: rest => .next (s.setPort rest).clearInstance
  | .issue format bytes inProgress :: rest =>
    match decode format bytes with
    | .ok i => issue i inProgress (s.setPort rest)
    | .error why => .refused (.undecodable why)

end Sys2Proof.Machine
end

