-- ==== Sys2Proof/Machine/Step.lean ====
section
/-!
DEFINITION. One step: one operation, whole (R3, decision D1 of the spec).
-/

namespace Sys2Proof.Machine

/-- One step of the block. -/
def step (s : State) : Host.Outcome State Fault Refusal := takeRequest s

/-- The state with the instruction of a table word as the host's next request (log entry 19). -/
def State.withFetchWord (s : State) (nbits w : Nat) : State :=
  s.setPort (.issue (tableBytes nbits w).1 (tableBytes nbits w).2 [] :: s.port)

end Sys2Proof.Machine
end

