-- ==== Sys2Proof/Safety.lean ====
section
/-!
DEFINITION. The terms in which statements about the block are made: the quiescent form of the buffer (R25),
the invariant of a block, and the observable outcome of a run (R165).
-/

namespace Sys2Proof

open Sys2Proof.Machine

/-- An occurrence of the magic sequence at offset `k`, whole (R105). -/
abbrev occursAt (s : List Byte) (k : Nat) : Prop := slice s k (k + magicLen) = magic

/-- The phase "waiting for a header" (R25). -/
abbrev WaitingForHeader (p : List Byte) : Prop := p.length < headerLen

/-- The phase "waiting for a payload" (R25). -/
abbrev WaitingForPayload (p : List Byte) : Prop :=
  headerLen ≤ p.length ∧ occursAt p 0 ∧ p.length < headerLen + lengthField p

/-- The quiescent form of `pending` between operations (R25). -/
abbrev Quiescent (p : List Byte) : Prop := WaitingForHeader p ∨ WaitingForPayload p

/-- What holds of a block between operations: its buffer has the quiescent form (R25) and is within
`PENDING_CAP` (R4). -/
abbrev Inv (s : State) : Prop :=
  Quiescent s.pending ∧ within s.params.pendingCap s.pending.length = true

/-- The next state of an outcome, if it is one. -/
def nextState (o : Host.Outcome State Fault Refusal) : Option State :=
  match o with
  | .next s => some s
  | .fault _ => none
  | .refused _ => none

/-- A run of `n` steps: the final state and the responses of its operations in the order they were given
(R165); `none` if a step has no meaning. A step that performs no operation adds none. -/
def run : Nat → State → Option (State × List Response)
  | 0, s => some (s, [])
  | n + 1, s =>
    match step s with
    | .next s' =>
      match run n s' with
      | some (t, responses) => some (t, s'.response.toList ++ responses)
      | none => none
    | .fault _ => none
    | .refused _ => none

/-- The results of the `RX.FEED`s among some responses, in order. -/
def receivedOf : List Response → List Result
  | [] => []
  | .received results :: rest => results ++ receivedOf rest
  | .checksum _ :: rest => receivedOf rest
  | .encoded _ :: rest => receivedOf rest

/-- The requests of a host that feeds these chunks one after the other. -/
def feedRequests (chunks : List (List Byte)) : List PortEvent :=
  chunks.map fun chunk => .issue .cmd (encode (.rxFeed chunk)) []

/-- `frame(p)` (R61): the bytes that `ENC.ENCODE` answers with for a payload shorter than 2^48. -/
def frameOf (payload : List Byte) : List Byte :=
  frameBytes payload.length (compute payload).toNat payload

/-- The bytes reported discarded among some results. -/
def discardedCount : List Result → Nat
  | [] => 0
  | .err (.desyncDiscarded n) :: rest => n + discardedCount rest
  | .err .checksumMismatch :: rest => discardedCount rest
  | .err .payloadTooLarge :: rest => discardedCount rest
  | .ok _ :: rest => discardedCount rest

end Sys2Proof
end

