-- ==== Sys2Proof/Certificates/Slice0/Obligations.lean ====
section
/-!
DEFINITION. The statements for the provers. Each docstring names what it formalises; a statement that rests
on a decision of the spec or of the model says so.
-/

open Sys2Proof Sys2Proof.Machine

/-! ### Constants and reset -/

/-- R10 and R13: the constants of the wire format and of the checksum. -/
def Obligations.ConstantsHaveTheirValues : Prop :=
  magic = [0, 1, 1, 2, 3, 5, 8, 13, 21, 34] ∧ magicLen = magic.length ∧ magicLen = 10 ∧ lenOff = 10 ∧
  lenSize = 6 ∧ ckOff = 16 ∧ ckSize = 6 ∧ headerLen = 22 ∧ tailKeep = 9 ∧ maxLen = 281474976710656 ∧
  poly = 0xEDB88320 ∧ crcInit = 0xFFFFFFFF ∧ crcXorOut = 0xFFFFFFFF

/-- The state after reset (R150 with decisions D6 and D14 of the spec): an empty buffer, no result
outstanding, and the table as its rule builds it. Nothing at the port and the default parameters are the
model's choice (log entries 1 and 5). -/
def Obligations.ResetStateIsEmpty : Prop :=
  State.reset.pending = [] ∧ State.reset.response = none ∧ State.reset.port = [] ∧
  State.reset.params = { pendingCap := none, chunkMax := none } ∧
  ∀ n : Byte, tableRead n = tableEntry n

/-- The table entry of an index is eight rounds from it (R14), written out for any index. The shift is
logical by decision D7 of the spec (log entry 23). -/
def Obligations.TableEntryIsEightRounds : Prop :=
  ∀ (n : Byte) (round : U32 → U32),
    (∀ c : U32, round c = if c &&& 1 ≠ 0 then 0xEDB88320 ^^^ (c >>> 1) else c >>> 1) →
    tableRead n = round (round (round (round (round (round (round (round (n.setWidth 32))))))))

/-- The magic sequence has no border (R12): two occurrences never overlap, and the first occurrence in
`junk ++ rest` is where `rest` begins when `rest` begins with the magic and `junk` holds none. -/
def Obligations.MagicOccurrencesDoNotOverlap : Prop :=
  (∀ k, 0 < k → k < 10 → magic.take k ≠ magic.drop (10 - k)) ∧
  (∀ (s : List Byte) (i j : Nat), occursAt s i → occursAt s j → i < j → i + 10 ≤ j) ∧
  (∀ junk rest : List Byte, occursAt rest 0 → (∀ k, ¬ occursAt junk k) →
    occursAt (junk ++ rest) junk.length ∧ ∀ k, k < junk.length → ¬ occursAt (junk ++ rest) k)

/-! ### The checksum unit -/

/-- The command of code 0x01 is `CRC.COMPUTE`; it answers with INIT, one UPDATE for each byte in order, and
FINAL (R74), and nothing else of the state changes. The code and its place are decision D3 of the spec (log
entries 22 and 7), and the shift of UPDATE is logical by decision D7 (log entry 23). -/
def Obligations.CrcComputeAnswersTheChecksum : Prop :=
  ∀ (bytes : List Byte) (s : State), operandFits s.params bytes = true →
    decode .cmd (0x01 :: bytes) = .ok (.crcCompute bytes) ∧
    exec (.crcCompute bytes) s = .next { s with response := some (.checksum
      ((bytes.foldl (fun (crc : U32) (b : Byte) =>
        (crc >>> 8) ^^^ tableRead ((crc ^^^ b.setWidth 32).setWidth 8)) 0xFFFFFFFF) ^^^ 0xFFFFFFFF)) }

/-- R79: the checksum of the empty input is zero. -/
def Obligations.ChecksumOfNothingIsZero : Prop :=
  ∀ s : State, exec (.crcCompute []) s = .next { s with response := some (.checksum 0x00000000) }

/-- R77 and R92: `CRC.COMPUTE` and `ENC.ENCODE` answer the same in any two states that take the operand,
and neither touches the buffer. -/
def Obligations.ChecksumAndEncoderArePure : Prop :=
  ∀ (bytes : List Byte) (s t : State),
    operandFits s.params bytes = true → operandFits t.params bytes = true →
    ∀ i, i = Instr.crcCompute bytes ∨ i = Instr.encEncode bytes →
    ∃ r, exec i s = .next { s with response := some r } ∧ exec i t = .next { t with response := some r }

/-- The bit-serial form of UPDATE (R76, derived by the spec): a block with no table, which clocks a 32-bit
shift register eight times for each byte, computes the same function. -/
def Obligations.UpdateIsEightSerialRounds : Prop :=
  ∀ (crc : U32) (b : Byte), crcUpdate crc b = crcRounds 8 (crc ^^^ b.setWidth 32)

/-- Splitting the input (R78, derived by the spec): the accumulator may be carried over any pieces, with
INIT before the first and FINAL after the last. -/
def Obligations.ChecksumMayBeStreamed : Prop :=
  ∀ pieces : List (List Byte),
    compute pieces.flatten
      = crcFinal (pieces.foldl (fun crc piece => piece.foldl crcUpdate crc) crcInit)

/-- Error detection (R81, derived by the spec): two inputs of one length that differ at exactly one byte
offset have different checksums. -/
def Obligations.OneChangedByteChangesTheChecksum : Prop :=
  ∀ (p q : List Byte) (i : Nat), p.length = q.length → i < p.length → p[i]? ≠ q[i]? →
    (∀ j, j ≠ i → p[j]? = q[j]?) → compute p ≠ compute q

/-! ### The encoder unit -/

/-- R50: the frame that `ENC.ENCODE` answers with, byte by byte, for a payload of fewer than 2^48 bytes.
Nothing but the response changes. -/
def Obligations.EncodedFrameHasTheWireLayout : Prop :=
  ∀ (payload : List Byte) (s : State), operandFits s.params payload = true → payload.length < 2 ^ 48 →
    ∃ f : List Byte,
      exec (.encEncode payload) s = .next { s with response := some (.encoded (.ok f)) } ∧
      f.length = 22 + payload.length ∧
      f.take 10 = [0x00, 0x01, 0x01, 0x02, 0x03, 0x05, 0x08, 0x0D, 0x15, 0x22] ∧
      (∀ k, k < 6 → f[10 + k]? = some (BitVec.ofNat 8 (payload.length >>> (8 * k)))) ∧
      (∀ k, k < 4 → f[16 + k]? = some ((compute payload).extractLsb' (8 * k) 8)) ∧
      f[20]? = some 0x00 ∧ f[21]? = some 0x00 ∧
      f.drop 22 = payload

/-- R91: `PayloadTooLarge` when, and only when, the payload has 2^48 bytes or more; then it is the whole
answer, and no state changes. -/
def Obligations.EncoderRefusesExactlyTheOversize : Prop :=
  ∀ (payload : List Byte) (s : State), operandFits s.params payload = true →
    ∃ r : Result, exec (.encEncode payload) s = .next { s with response := some (.encoded r) } ∧
      (r = .err .payloadTooLarge ↔ 2 ^ 48 ≤ payload.length) ∧
      (r ≠ .err .payloadTooLarge → ∃ f, r = .ok f)

/-- R131: an oversize `ENC.ENCODE` leaves the block as it was but for its answer, the receiver never
reports `PayloadTooLarge`, and no length field holds 2^48. -/
def Obligations.PayloadTooLargeIsTheEncodersAlone : Prop :=
  (∀ (payload : List Byte) (s : State), operandFits s.params payload = true →
    2 ^ 48 ≤ payload.length →
    exec (.encEncode payload) s
      = .next { s with response := some (.encoded (.err .payloadTooLarge)) }) ∧
  (∀ (p chunk : List Byte), Result.err .payloadTooLarge ∉ (feed p chunk).2) ∧
  (∀ p : List Byte, lengthField p < 2 ^ 48)

/-! ### Encodings -/

/-- R52 and R53: the receiver reads the length and the checksum field as unsigned little-endian numbers of
six bytes at offsets 10 and 16, every byte of them; the encoder writes the payload's length and the checksum
of the payload alone, with zeros at offsets 20 and 21. -/
def Obligations.HeaderFieldsAreLittleEndian : Prop :=
  (∀ f : List Byte, 22 ≤ f.length →
    lengthField f = (f.getD 10 0).toNat + 2 ^ 8 * (f.getD 11 0).toNat + 2 ^ 16 * (f.getD 12 0).toNat
      + 2 ^ 24 * (f.getD 13 0).toNat + 2 ^ 32 * (f.getD 14 0).toNat + 2 ^ 40 * (f.getD 15 0).toNat ∧
    checksumField f = (f.getD 16 0).toNat + 2 ^ 8 * (f.getD 17 0).toNat + 2 ^ 16 * (f.getD 18 0).toNat
      + 2 ^ 24 * (f.getD 19 0).toNat + 2 ^ 32 * (f.getD 20 0).toNat + 2 ^ 40 * (f.getD 21 0).toNat) ∧
  (∀ p : List Byte, p.length < 2 ^ 48 → encodeFrame p = .ok (frameOf p) ∧
    lengthField (frameOf p) = p.length ∧ checksumField (frameOf p) = (compute p).toNat ∧
    (frameOf p)[20]? = some 0x00 ∧ (frameOf p)[21]? = some 0x00)

/-- Every well-formed operation decodes back from its bytes, with every operand (30_encoding.md). The
codes of the commands and their place are decision D3 of the spec (log entries 22 and 7); `FRAME` as an
operation is the model's choice (log entry 3). -/
def Obligations.DecodeOfEncodeIsTheOperation : Prop :=
  ∀ i : Instr, i.wf = true → decode (formatOf i) (encode i) = .ok i

/-- Every byte sequence stands for at most one operation of its format, which is well-formed and is
written by exactly those bytes (30_encoding.md). The codes of the commands and their place are decision D3
of the spec (log entries 22 and 7). That `RX.CLEAR` is its code and nothing after it, and that no command is
without a code, is the model's choice (log entry 8), and so is that `FRAME` is the bytes of one frame, no
more and no fewer (log entry 3). -/
def Obligations.EncodeOfDecodeIsTheBytes : Prop :=
  ∀ (format : Format) (bytes : List Byte) (i : Instr), decode format bytes = .ok i →
    i.wf = true ∧ formatOf i = format ∧ encode i = bytes

/-- Words written out from the tables of 30_encoding.md decode to the operations they stand for. The codes
of the four commands and their place are decision D3 of the spec (log entries 22 and 7); `FRAME` as an
operation is the model's choice (log entry 3). -/
def Obligations.SampleWordsDecode : Prop :=
  decode .cmd [0x01, 0x61] = .ok (.crcCompute [0x61]) ∧
  decode .cmd [0x02] = .ok (.encEncode []) ∧
  decode .cmd [0x03, 0x00, 0x01] = .ok (.rxFeed [0x00, 0x01]) ∧
  decode .cmd [0x04] = .ok .rxClear ∧
  decode .wire [0x00, 0x01, 0x01, 0x02, 0x03, 0x05, 0x08, 0x0D, 0x15, 0x22,
      0x01, 0x00, 0x00, 0x00, 0x00, 0x00, 0x8B, 0x9E, 0xD9, 0xD3, 0x00, 0x00, 0x41]
    = .ok (.frame 1 0xD3D99E8B [0x41])

/-- A reserved command code has no step (R58 with decisions D3 and D21 of the spec; the place of the code is
log entry 7, the port log entry 1). -/
def Obligations.ReservedCodesHaveNoStep : Prop :=
  ∀ (code : Byte) (operand : List Byte) (inProgress : List Instr) (rest : List PortEvent) (s : State),
    code.toNat = 0 ∨ 5 ≤ code.toNat →
    s.port = .issue .cmd (code :: operand) inProgress :: rest →
    step s = .refused (.undecodable (.reservedCode code))

/-! ### Steps -/

/-- A step runs the operation whose bytes stand at the front of the port, in the state with that request
taken (R38 with decision D2 of the spec; log entry 1), whatever is in progress if the operation is
`CRC.COMPUTE` or `ENC.ENCODE`, and beside any number of those two if it is another (R40; log entry 9). -/
def Obligations.StepRunsTheIssuedOperation : Prop :=
  ∀ (s : State) (format : Format) (bytes : List Byte) (inProgress : List Instr) (rest : List PortEvent)
    (i : Instr),
    s.port = .issue format bytes inProgress :: rest → decode format bytes = .ok i →
    (((∃ b, i = .crcCompute b) ∨ ∃ b, i = .encEncode b) ∨
      ∀ j ∈ inProgress, (∃ b, j = .crcCompute b) ∨ ∃ b, j = .encEncode b) →
    step s = exec i { s with port := rest }

/-- A step with nothing asked for changes nothing and answers nothing (log entries 10 and 2), and a step
that takes a reset empties the buffer and the response (R150, R151 with decision D14 of the spec; log entry
11). -/
def Obligations.StepIdlesAndResets : Prop :=
  ∀ s : State, (s.port = [] → step s = .next { s with response := none }) ∧
    (∀ rest, s.port = .reset :: rest →
      step s = .next { s with pending := [], response := none, port := rest })

/-- Two operations on one buffer at once have no meaning, and the second is turned away; `CRC.COMPUTE` and
`ENC.ENCODE` are exempt, whether issued or in progress (R153, R40 with decision D13 of the spec; log entry 9,
and log entry 3 for `FRAME`). -/
def Obligations.OverlappingReceiverOperationIsRefused : Prop :=
  ∀ (s : State) (format : Format) (bytes : List Byte) (inProgress : List Instr) (rest : List PortEvent)
    (i : Instr),
    s.port = .issue format bytes inProgress :: rest → decode format bytes = .ok i →
    (step s = .refused .overlappingOperation ↔
      ((∃ chunk, i = .rxFeed chunk) ∨ i = .rxClear ∨ ∃ n c p, i = .frame n c p) ∧
      ∃ j ∈ inProgress, (∃ chunk, j = .rxFeed chunk) ∨ j = .rxClear ∨ ∃ n c p, j = .frame n c p)

/-- Operands beyond a finite `CHUNK_MAX` and chunks beyond a finite `PENDING_CAP` have no step (R4, R44
with decisions D10 and D19 of the spec). That `CHUNK_MAX` is looked at first, before `PENDING_CAP` and before
`PayloadTooLarge`, is the model's choice (log entry 6); `FRAME`, whose operand is its bytes, is log entry 3. -/
def Obligations.FiniteBoundsRefuse : Prop :=
  ∀ (bytes : List Byte) (s : State),
    (∀ n, s.params.chunkMax = some n → n < bytes.length →
      exec (.crcCompute bytes) s = .refused .operandTooLong ∧
      exec (.encEncode bytes) s = .refused .operandTooLong ∧
      exec (.rxFeed bytes) s = .refused .operandTooLong ∧
      ∀ (length checksum : U48) (payload : List Byte),
        bytes = magic ++ encLe48 length.toNat ++ encLe48 checksum.toNat ++ payload →
        exec (.frame length checksum payload) s = .refused .operandTooLong) ∧
    (∀ n, s.params.pendingCap = some n → operandFits s.params bytes = true →
      n < s.pending.length + bytes.length →
      exec (.rxFeed bytes) s = .refused .pendingCapExceeded ∧
      ∀ (length checksum : U48) (payload : List Byte),
        bytes = magic ++ encLe48 length.toNat ++ encLe48 checksum.toNat ++ payload →
        exec (.frame length checksum payload) s = .refused .pendingCapExceeded)

/-- With the default parameters every operation that decodes and is not the second one on the buffer
completes, in every state: there is no mode, no enable and nothing to set up (R140, R152, R135; log entry 5,
and log entry 9 for what is in progress). -/
def Obligations.EveryOperationCompletesByDefault : Prop :=
  ∀ (s : State) (format : Format) (bytes : List Byte) (inProgress : List Instr) (rest : List PortEvent)
    (i : Instr),
    s.params = { pendingCap := none, chunkMax := none } →
    s.port = .issue format bytes inProgress :: rest → decode format bytes = .ok i →
    (((∃ b, i = .crcCompute b) ∨ ∃ b, i = .encEncode b) ∨
      ∀ j ∈ inProgress, (∃ b, j = .crcCompute b) ∨ ∃ b, j = .encEncode b) →
    ∃ t, step s = .next t

/-- What an operation leaves as it was (R138): the port and the parameters always, and the buffer unless
the operation is the receiver's. -/
def Obligations.OperationsLeaveTheRestAlone : Prop :=
  ∀ (i : Instr) (s t : State), exec i s = .next t →
    t.port = s.port ∧ t.params = s.params ∧
    ((∃ bytes, i = .crcCompute bytes ∨ i = .encEncode bytes) → t.pending = s.pending)

/-- Only `RX.FEED`, `RX.CLEAR`, `FRAME` and reset write the buffer (R17; FRAME is the model's own way to
feed, log entry 3), and every step takes the request at the front of the port, if there is one, and writes
no parameter (log entry 1). -/
def Obligations.BufferIsWrittenByTheReceiverAlone : Prop :=
  ∀ s t : State, step s = .next t →
    t.port = s.port.tail ∧ t.params = s.params ∧
    (t.pending ≠ s.pending →
      s.port.head? = some .reset ∨
      ∃ format bytes inProgress i, s.port.head? = some (.issue format bytes inProgress) ∧
        decode format bytes = .ok i ∧
        ((∃ chunk, i = .rxFeed chunk) ∨ i = .rxClear ∨ ∃ n c p, i = .frame n c p))

/-! ### The receiver: one operation -/

/-- `RX.CLEAR` empties the buffer, has no response, and changes nothing else (R100 with decision D14 of the
spec; log entry 21). -/
def Obligations.ClearEmptiesTheBuffer : Prop :=
  ∀ s : State, exec .rxClear s = .next { s with pending := [], response := none }

/-- `RX.FEED` appends its chunk (R101) and then runs the loop: iterations until one says stop, their results
in the order they come (R114). Nothing else of the state changes. That it is the command of code 0x03, with
the chunk after the code, is decision D3 of the spec (log entries 22 and 7). -/
def Obligations.FeedAppendsAndRunsTheLoop : Prop :=
  (∀ (chunk : List Byte) (s : State), operandFits s.params chunk = true →
    chunkFits s.params s.pending chunk = true →
    decode .cmd (0x03 :: chunk) = .ok (.rxFeed chunk) ∧
    exec (.rxFeed chunk) s = .next { s with
      pending := (drain (s.pending ++ chunk)).1
      response := some (.received (drain (s.pending ++ chunk)).2) }) ∧
  (∀ p : List Byte, drain p =
    match (rxIter p).control with
    | .stop => ((rxIter p).buffer, (rxIter p).out.toList)
    | .again => ((drain (rxIter p).buffer).1, (rxIter p).out.toList ++ (drain (rxIter p).buffer).2))

/-- One iteration: the six outcomes of R102, each under its own condition, with its buffer, result and
control. The count of DISCARD is decision D8 of the spec (log entry 13), the comparison of checksums D9 (log
entry 14), the scan D16. -/
def Obligations.IterationHasSixOutcomes : Prop :=
  ∀ p : List Byte,
    (p.length < 22 → rxIter p = ⟨p, none, .stop⟩) ∧
    (22 ≤ p.length → ¬ occursAt p 0 →
      (∀ k, 1 ≤ k → occursAt p k → (∀ j, 1 ≤ j → j < k → ¬ occursAt p j) →
        rxIter p = ⟨p.drop k, some (.err (.desyncDiscarded k)), .again⟩ ∧ k ≤ p.length - 10) ∧
      ((∀ k, ¬ occursAt p k) →
        rxIter p = ⟨p.drop (p.length - 9), some (.err (.desyncDiscarded (p.length - 9))), .stop⟩)) ∧
    (22 ≤ p.length → occursAt p 0 →
      (p.length < 22 + le48 (slice p 10 16) → rxIter p = ⟨p, none, .stop⟩) ∧
      (22 + le48 (slice p 10 16) ≤ p.length →
        rxIter p =
          ⟨p.drop (22 + le48 (slice p 10 16)),
           some (if (compute (slice p 22 (22 + le48 (slice p 10 16)))).toNat = le48 (slice p 16 22)
             then .ok (slice p 22 (22 + le48 (slice p 10 16))) else .err .checksumMismatch),
           .again⟩))

/-- The scan finds the least whole occurrence at an offset of at least 1, or there is none (R105 with
decision D16 of the spec). -/
def Obligations.ScanFindsTheLeastOccurrence : Prop :=
  ∀ (p : List Byte),
    (∀ k, findMagic p = some k ↔
      1 ≤ k ∧ k + 10 ≤ p.length ∧ occursAt p k ∧ ∀ j, 1 ≤ j → j < k → ¬ occursAt p j) ∧
    (findMagic p = none ↔ ∀ k, 1 ≤ k → ¬ occursAt p k)

/-- R103: with fewer than 22 bytes in the buffer after the append nothing is examined, not even the magic;
every byte stays and no result is given. With 22 or more the test passes: bytes out of synchronisation are
then reported. -/
def Obligations.NothingIsExaminedBelowTwentyTwoBytes : Prop :=
  ∀ (chunk : List Byte) (s : State), operandFits s.params chunk = true →
    chunkFits s.params s.pending chunk = true →
    ((s.pending ++ chunk).length < 22 →
      exec (.rxFeed chunk) s
        = .next { s with pending := s.pending ++ chunk, response := some (.received []) }) ∧
    (22 ≤ (s.pending ++ chunk).length → ¬ occursAt (s.pending ++ chunk) 0 →
      ∃ t n rest, exec (.rxFeed chunk) s = .next t ∧
        t.response = some (.received (.err (.desyncDiscarded n) :: rest)))

/-- R155: a frame is taken when `len(pending) >= 22 + L` and not before. Before that nothing is delivered
or reported and every byte stays; from then on the first result is that frame's. -/
def Obligations.FrameIsTakenExactlyWhenWhole : Prop :=
  ∀ (chunk : List Byte) (s : State), operandFits s.params chunk = true →
    chunkFits s.params s.pending chunk = true →
    22 ≤ (s.pending ++ chunk).length → occursAt (s.pending ++ chunk) 0 →
    ((s.pending ++ chunk).length < 22 + lengthField (s.pending ++ chunk) →
      exec (.rxFeed chunk) s
        = .next { s with pending := s.pending ++ chunk, response := some (.received []) }) ∧
    (22 + lengthField (s.pending ++ chunk) ≤ (s.pending ++ chunk).length →
      ∃ t r rest, exec (.rxFeed chunk) s = .next t ∧ t.response = some (.received (r :: rest)) ∧
        (r = .ok (slice (s.pending ++ chunk) 22 (22 + lengthField (s.pending ++ chunk))) ∨
          r = .err .checksumMismatch))

/-- A whole frame is consumed whatever the verdict, and the receiver goes on from the byte after it (R111);
a frame whose payload does not hash to the checksum field is reported and not delivered (R133). That the
verdict looks at all six bytes of the field is decision D9 of the spec (log entry 14). -/
def Obligations.WholeFrameIsConsumedEitherWay : Prop :=
  ∀ (chunk : List Byte) (s : State) (p payload rest : List Byte) (L : Nat),
    operandFits s.params chunk = true → chunkFits s.params s.pending chunk = true →
    p = s.pending ++ chunk → 22 ≤ p.length → occursAt p 0 → L = lengthField p → 22 + L ≤ p.length →
    payload = slice p 22 (22 + L) → rest = p.drop (22 + L) →
    exec (.rxFeed chunk) s = .next { s with
      pending := (drain rest).1
      response := some (.received
        ((if (compute payload).toNat = checksumField p then .ok payload else .err .checksumMismatch)
          :: (drain rest).2)) }

/-- A checksum field with a byte other than zero at frame offset 20 or 21 never matches (R112, R58 with
decision D9 of the spec; log entry 14), whatever the payload; the frame is consumed. -/
def Obligations.HighChecksumBytesNeverMatch : Prop :=
  ∀ (length checksum : U48) (payload : List Byte) (s : State),
    payload.length = length.toNat → 2 ^ 32 ≤ checksum.toNat → s.pending = [] →
    operandFits s.params (encode (.frame length checksum payload)) = true →
    chunkFits s.params s.pending (encode (.frame length checksum payload)) = true →
    exec (.rxFeed (encode (.frame length checksum payload))) s
      = .next { s with response := some (.received [.err .checksumMismatch]) }

/-- `FRAME` (the table's row for R50; log entry 3) completes in every state that takes its bytes, and does
to it what the receiver does with those bytes. -/
def Obligations.FrameIsFedWhole : Prop :=
  ∀ (length checksum : U48) (payload bytes : List Byte) (s : State),
    bytes = magic ++ encLe48 length.toNat ++ encLe48 checksum.toNat ++ payload →
    operandFits s.params bytes = true → chunkFits s.params s.pending bytes = true →
    exec (.frame length checksum payload) s = .next { s with
      pending := (drain (s.pending ++ bytes)).1
      response := some (.received (drain (s.pending ++ bytes)).2) }

/-- A well-formed `FRAME` that meets an empty buffer is judged by its checksum alone and leaves the buffer
empty (R55, R112 with decision D9 of the spec; log entries 14 and 3). -/
def Obligations.LoneFrameIsJudgedByItsChecksum : Prop :=
  ∀ (length checksum : U48) (payload : List Byte) (s : State),
    (Instr.frame length checksum payload).wf = true → s.pending = [] →
    operandFits s.params (encode (.frame length checksum payload)) = true →
    chunkFits s.params s.pending (encode (.frame length checksum payload)) = true →
    exec (.frame length checksum payload) s = .next { s with response := some (.received
      [if (compute payload).toNat = checksum.toNat then .ok payload else .err .checksumMismatch]) }

/-- R31: bytes enter the buffer only at its back and leave only from its front, and none is changed in
place. -/
def Obligations.BufferIsAQueue : Prop :=
  ∀ (chunk : List Byte) (s : State), operandFits s.params chunk = true →
    chunkFits s.params s.pending chunk = true →
    ∃ t n, exec (.rxFeed chunk) s = .next t ∧ n ≤ (s.pending ++ chunk).length ∧
      t.pending = (s.pending ++ chunk).drop n

/-- Termination and bound (R113, derived by the spec): an iteration that says continue shortens the buffer,
a RESYNC leaves one that begins with the magic, so no second RESYNC follows it at once, and one `RX.FEED`
has at most `len(pending) + len(chunk)` results. -/
def Obligations.LoopEndsWithinItsBound : Prop :=
  (∀ p : List Byte, (rxIter p).control = .again → (rxIter p).buffer.length < p.length) ∧
  (∀ (p : List Byte) (k : Nat), (rxIter p).control = .again →
    (rxIter p).out = some (.err (.desyncDiscarded k)) →
    occursAt (rxIter p).buffer 0 ∧ ∀ n, (rxIter (rxIter p).buffer).out ≠ some (.err (.desyncDiscarded n))) ∧
  (∀ (p : List Byte) (fuel : Nat) (results : List Result), p.length + 1 ≤ fuel →
    rxLoop fuel p results = ((drain p).1, results ++ (drain p).2)) ∧
  (∀ p chunk : List Byte, (feed p chunk).2.length ≤ p.length + chunk.length)

/-- The counts of R132: every `DesyncDiscarded` discards at least one byte, at least 13 when no magic was
found, and never more than the buffer holds (decision D8 of the spec, log entry 13, for the count of
DISCARD). -/
def Obligations.DiscardCountsAreTrue : Prop :=
  ∀ (p : List Byte) (n : Nat), (rxIter p).out = some (.err (.desyncDiscarded n)) →
    1 ≤ n ∧ n ≤ p.length ∧ (rxIter p).buffer = p.drop n ∧
    ((rxIter p).control = .stop → 13 ≤ n ∧ (rxIter p).buffer.length = 9)

/-! ### The receiver: invariants -/

/-- R135: no input puts the block in a state from which it cannot go on: every `RX.FEED` ends and leaves a
buffer of the quiescent form (R25), whatever the buffer was; with 22 bytes and no magic, nine are left. -/
def Obligations.EveryFeedLeavesAQuiescentBuffer : Prop :=
  ∀ (chunk : List Byte) (s : State), operandFits s.params chunk = true →
    chunkFits s.params s.pending chunk = true →
    ∃ t, exec (.rxFeed chunk) s = .next t ∧ Quiescent t.pending ∧
      (22 ≤ (s.pending ++ chunk).length → (∀ k, ¬ occursAt (s.pending ++ chunk) k) →
        t.pending.length = 9)

/-- Every step keeps the invariant (R25, derived by the spec; R4): a buffer of the quiescent form, within
`PENDING_CAP`. -/
def Obligations.StepKeepsTheInvariant : Prop :=
  ∀ s t : State, Inv s → step s = .next t → Inv t

/-- The state after reset meets the invariant. -/
def Obligations.ResetMeetsTheInvariant : Prop := Inv State.reset

/-- The empty chunk (R122, derived by the spec): in every quiescent state it gives no result and leaves the
buffer as it was. -/
def Obligations.EmptyChunkChangesNothing : Prop :=
  ∀ s : State, Quiescent s.pending → operandFits s.params [] = true →
    chunkFits s.params s.pending [] = true →
    exec (.rxFeed []) s = .next { s with response := some (.received []) }

/-! ### The receiver: streams -/

/-- R117: frames fed in any chunks give the payloads in order, as one chunk does, and leave the buffer
empty. -/
def Obligations.PayloadsAreChunkIndependent : Prop :=
  ∀ (payloads chunks : List (List Byte)) (s : State),
    (∀ p ∈ payloads, p.length < 2 ^ 48) →
    chunks.flatten = (payloads.map frameOf).flatten →
    s.pending = [] → s.port = feedRequests chunks →
    (∀ chunk ∈ chunks, operandFits s.params chunk = true) →
    chunkFits s.params [] chunks.flatten = true →
    ∃ t responses, run chunks.length s = some (t, responses) ∧
      receivedOf responses = payloads.map .ok ∧ t.pending = [] ∧ t.port = [] ∧ t.params = s.params

/-- R118: three frames in one chunk are all delivered, in order, by that one `RX.FEED`. -/
def Obligations.OneFeedDrainsThreeFrames : Prop :=
  ∀ (a b c : List Byte) (s : State), a.length < 2 ^ 48 → b.length < 2 ^ 48 → c.length < 2 ^ 48 →
    s.pending = [] → operandFits s.params (frameOf a ++ frameOf b ++ frameOf c) = true →
    chunkFits s.params s.pending (frameOf a ++ frameOf b ++ frameOf c) = true →
    exec (.rxFeed (frameOf a ++ frameOf b ++ frameOf c)) s
      = .next { s with response := some (.received [.ok a, .ok b, .ok c]) }

/-- R119: one flipped bit in a frame's payload gives `ChecksumMismatch` for that frame, and the frames
after it are delivered. -/
def Obligations.FlippedPayloadBitIsDetected : Prop :=
  ∀ (payload : List Byte) (i bit : Nat) (later : List (List Byte)) (chunk : List Byte) (s : State),
    payload.length < 2 ^ 48 → (hi : i < payload.length) → bit < 8 →
    (∀ p ∈ later, p.length < 2 ^ 48) →
    chunk = (frameOf payload).take 22 ++ payload.set i (payload[i] ^^^ (1#8 <<< bit))
      ++ (later.map frameOf).flatten →
    s.pending = [] → operandFits s.params chunk = true → chunkFits s.params s.pending chunk = true →
    exec (.rxFeed chunk) s
      = .next { s with response := some (.received (.err .checksumMismatch :: later.map .ok)) }

/-- Resynchronisation (R120, derived by the spec; conflict C5): junk with no magic and then a frame, fed as
one chunk to an empty buffer, give one `DesyncDiscarded` with the junk's length and the payload; with no
junk there is no error. -/
def Obligations.FrameAfterJunkIsFound : Prop :=
  ∀ (junk payload : List Byte) (s : State), (∀ k, ¬ occursAt junk k) → payload.length < 2 ^ 48 →
    s.pending = [] → operandFits s.params (junk ++ frameOf payload) = true →
    chunkFits s.params s.pending (junk ++ frameOf payload) = true →
    exec (.rxFeed (junk ++ frameOf payload)) s = .next { s with response := some (.received
      (if junk = [] then [.ok payload]
       else [.err (.desyncDiscarded junk.length), .ok payload])) }

/-- Junk with no magic and then a frame, fed in any chunks to an empty buffer (R132, R161; conflict C5):
the last result is the payload, every result before it is a `DesyncDiscarded`, and their counts sum to the
junk's length (decision D8 of the spec; log entry 13). -/
def Obligations.FrameAfterJunkSurvivesAnyChunking : Prop :=
  ∀ (junk payload : List Byte) (chunks : List (List Byte)) (s : State),
    (∀ k, ¬ occursAt junk k) → payload.length < 2 ^ 48 →
    chunks.flatten = junk ++ frameOf payload →
    s.pending = [] → s.port = feedRequests chunks →
    (∀ chunk ∈ chunks, operandFits s.params chunk = true) →
    chunkFits s.params [] chunks.flatten = true →
    ∃ t responses errors, run chunks.length s = some (t, responses) ∧ t.pending = [] ∧
      receivedOf responses = errors ++ [.ok payload] ∧
      (∀ r ∈ errors, ∃ n, r = .err (.desyncDiscarded n)) ∧ discardedCount errors = junk.length

/-- Errors do depend on the chunking (R121, derived by the spec): the thirty bytes 40 to 5D and then
`frame("A")`, in one chunk and in two. The count 21 is that of a DISCARD, decision D8 of the spec (log entry
13). -/
def Obligations.ErrorsDependOnTheChunking : Prop :=
  ∃ (junk : List Byte) (p : List Byte),
    (feed [] (junk ++ frameOf [0x41])).2 = [.err (.desyncDiscarded 30), .ok [0x41]] ∧
    feed [] junk = (p, [.err (.desyncDiscarded 21)]) ∧
    feed p (frameOf [0x41]) = ([], [.err (.desyncDiscarded 9), .ok [0x41]])

/-- R158: a header that announces `L` bytes is waited for without limit: while fewer than `22 + L` bytes
have come, every operation ends, none gives a result, and every byte is kept. -/
def Obligations.AnnouncedPayloadIsAwaitedWithoutLimit : Prop :=
  ∀ (chunks : List (List Byte)) (s : State),
    WaitingForPayload s.pending → s.port = feedRequests chunks →
    (s.pending ++ chunks.flatten).length < 22 + lengthField s.pending →
    (∀ chunk ∈ chunks, operandFits s.params chunk = true) →
    chunkFits s.params s.pending chunks.flatten = true →
    ∃ t responses, run chunks.length s = some (t, responses) ∧
      responses = chunks.map (fun _ => .received []) ∧ t.pending = s.pending ++ chunks.flatten

/-! ### Runs -/

/-- A run goes on past its last operation without a trace (R165, R24): once nothing is asked for, no further
step adds a response or touches the buffer. What a step does then is the model's choice (log entries 10
and 2). -/
def Obligations.IdleStepsAddNothingToARun : Prop :=
  ∀ (n m : Nat) (s t : State) (responses : List Response),
    run n s = some (t, responses) → t.port = [] →
    ∃ u, run (n + m) s = some (u, responses) ∧ u.pending = t.pending ∧ u.params = t.params ∧ u.port = []

/-- The outcome of a run has one response for each of its operations but `RX.CLEAR`, which has none (R165,
R56, R100), in every state with the default parameters and whatever the operations are (log entries 1, 5 and
21; log entry 3 for `FRAME`). -/
def Obligations.RunGivesOneResponsePerOperation : Prop :=
  ∀ (operations : List Instr) (s : State),
    s.params = { pendingCap := none, chunkMax := none } → (∀ i ∈ operations, i.wf = true) →
    s.port = operations.map (fun i => .issue (formatOf i) (encode i) []) →
    ∃ t responses, run operations.length s = some (t, responses) ∧ t.port = [] ∧
      responses.length = (operations.filter fun i => i ≠ .rxClear).length
end

