-- ==== Sys2Proof/Laws/Bytes.lean ====
section
/-!
SUPPORT. What the byte-order and layout functions of Decode.lean do.
-/

namespace Sys2Proof

/-! ### Slices -/

@[simp] theorem length_slice (s : List Byte) (i j : Nat) :
    (slice s i j).length = min (j - i) (s.length - i) := by
  simp [slice]

theorem slice_append_left {a : List Byte} {j : Nat} (b : List Byte) (i : Nat) (h : j ≤ a.length) :
    slice (a ++ b) i j = slice a i j := by
  simp only [slice, List.drop_append]
  rcases Nat.le_total i a.length with hi | hi
  · rw [List.take_append_of_le_length (by simp; omega)]
  · simp [Nat.sub_eq_zero_of_le (Nat.le_trans h hi)]

theorem slice_append_right {a : List Byte} {i j : Nat} (b : List Byte) (h : a.length ≤ i) :
    slice (a ++ b) i j = slice b (i - a.length) (j - a.length) := by
  simp only [slice, List.drop_append, List.drop_eq_nil_of_le h, List.nil_append]
  congr 1
  omega

/-- A slice of the whole middle part. -/
theorem slice_middle (a b c : List Byte) :
    slice (a ++ b ++ c) a.length (a.length + b.length) = b := by
  simp [slice, List.append_assoc]

theorem occursAt_drop (s : List Byte) (i k : Nat) : occursAt (s.drop i) k ↔ occursAt s (i + k) := by
  simp [occursAt, slice, List.drop_drop]

/-- A whole occurrence lies inside the sequence. -/
theorem occursAt_le {s : List Byte} {k : Nat} (h : occursAt s k) : k + magicLen ≤ s.length := by
  have := congrArg List.length h
  simp [magic] at this
  simp
  omega

/-! ### The six-byte fields -/

@[simp] theorem length_encLe48 (v : Nat) : (encLe48 v).length = 6 := rfl

theorem byteVal_lt (s : List Byte) (i : Nat) : byteVal s i < 2 ^ 8 := (s.getD i 0).isLt

/-- `le48` is a `u48` (R7). -/
theorem le48_lt (s : List Byte) : le48 s < 2 ^ 48 := by
  have := byteVal_lt s 0
  have := byteVal_lt s 1
  have := byteVal_lt s 2
  have := byteVal_lt s 3
  have := byteVal_lt s 4
  have := byteVal_lt s 5
  unfold le48
  omega

/-- `le48(enc_le48(v)) = v` (R7). -/
theorem le48_encLe48 {v : Nat} (h : v < 2 ^ 48) : le48 (encLe48 v) = v := by
  simp only [le48, encLe48, byteVal, List.getD_cons_zero, List.getD_cons_succ, BitVec.toNat_ofNat]
  omega

/-- Six bytes are the field of the number they hold. -/
theorem encLe48_le48 {s : List Byte} (h : s.length = 6) : encLe48 (le48 s) = s := by
  obtain ⟨a, b, c, d, e, f, rfl⟩ : ∃ a b c d e f, s = [a, b, c, d, e, f] := by
    match s, h with
    | [a, b, c, d, e, f], _ => exact ⟨a, b, c, d, e, f, rfl⟩
  have := a.isLt
  have := b.isLt
  have := c.isLt
  have := d.isLt
  have := e.isLt
  have := f.isLt
  simp only [le48, encLe48, byteVal, List.getD_cons_zero, List.getD_cons_succ]
  congr 1
  · apply BitVec.eq_of_toNat_eq; simp; omega
  congr 1
  · apply BitVec.eq_of_toNat_eq; simp; omega
  congr 1
  · apply BitVec.eq_of_toNat_eq; simp; omega
  congr 1
  · apply BitVec.eq_of_toNat_eq; simp; omega
  congr 1
  · apply BitVec.eq_of_toNat_eq; simp; omega
  congr 1
  · apply BitVec.eq_of_toNat_eq; simp; omega

/-! ### The layout of a frame -/

@[simp] theorem length_frameBytes (length checksum : Nat) (payload : List Byte) :
    (frameBytes length checksum payload).length = headerLen + payload.length := by
  simp [frameBytes, magic]
  omega

theorem occursAt_frameBytes (length checksum : Nat) (payload rest : List Byte) :
    occursAt (frameBytes length checksum payload ++ rest) 0 := by
  simp [occursAt, slice, frameBytes, magic]

theorem lengthField_frameBytes {length : Nat} (checksum : Nat) (payload rest : List Byte)
    (h : length < 2 ^ 48) : lengthField (frameBytes length checksum payload ++ rest) = length := by
  have : slice (frameBytes length checksum payload ++ rest) 10 16 = encLe48 length := by
    simpa [frameBytes, List.append_assoc, magic] using
      slice_middle magic (encLe48 length) (encLe48 checksum ++ payload ++ rest)
  simpa [lengthField, this] using le48_encLe48 h

theorem checksumField_frameBytes (length : Nat) {checksum : Nat} (payload rest : List Byte)
    (h : checksum < 2 ^ 48) :
    checksumField (frameBytes length checksum payload ++ rest) = checksum := by
  have : slice (frameBytes length checksum payload ++ rest) 16 22 = encLe48 checksum := by
    simpa [frameBytes, List.append_assoc, magic] using
      slice_middle (magic ++ encLe48 length) (encLe48 checksum) (payload ++ rest)
  simpa [checksumField, this] using le48_encLe48 h

theorem payload_frameBytes (length checksum : Nat) (payload rest : List Byte) :
    slice (frameBytes length checksum payload ++ rest) headerLen (headerLen + payload.length)
      = payload := by
  simpa [frameBytes, List.append_assoc, magic] using
    slice_middle (magic ++ encLe48 length ++ encLe48 checksum) payload rest

theorem drop_frameBytes (length checksum : Nat) (payload rest : List Byte) :
    (frameBytes length checksum payload ++ rest).drop (headerLen + payload.length) = rest := by
  rw [← length_frameBytes length checksum payload, List.drop_left]

end Sys2Proof
end

