-- ==== Sys2Proof/Laws/Crc.lean ====
section
/-!
SUPPORT. What the checksum unit's rounds and steps do.
-/

namespace Sys2Proof.Machine

/-- A round is linear over XOR (R76). -/
theorem crcRound_xor (x y : U32) : crcRound (x ^^^ y) = crcRound x ^^^ crcRound y := by
  have hx : (x ^^^ y) >>> 1 = (x >>> 1) ^^^ (y >>> 1) := BitVec.ushiftRight_xor_distrib ..
  unfold crcRound
  rw [hx, BitVec.getLsbD_xor]
  cases x.getLsbD 0 <;> cases y.getLsbD 0
  · rfl
  · simp only [Bool.false_bne, if_true, Bool.false_eq_true, if_false]; ac_rfl
  · simp only [Bool.bne_false, if_true, Bool.false_eq_true, if_false]; ac_rfl
  · simp only [bne_self_eq_false, Bool.false_eq_true, if_false, if_true]
    rw [show ∀ a b c d : U32, (a ^^^ b) ^^^ (c ^^^ d) = (a ^^^ c) ^^^ (b ^^^ d) by intros; ac_rfl]
    simp

/-- Any number of rounds is linear over XOR (R76). -/
theorem crcRounds_xor (n : Nat) (x y : U32) :
    crcRounds n (x ^^^ y) = crcRounds n x ^^^ crcRounds n y := by
  induction n generalizing x y with
  | zero => rfl
  | succ n ih => simp only [crcRounds, crcRound_xor, ih]

/-- FINAL keeps a difference (R81). -/
theorem crcFinal_injective {x y : U32} (h : crcFinal x = crcFinal y) : x = y := by
  have := congrArg (· ^^^ crcXorOut) h
  simpa [crcFinal, BitVec.xor_assoc] using this

end Sys2Proof.Machine
end

