-- ==== Sys2Proof/Laws/PerInstr.lean ====
section
/-!
SUPPORT. Statements about every operation as syntax, one lemma for each constructor of `Instr`.
-/

namespace Sys2Proof.Laws.EncodeSize

/-- The bytes of an operation are its fixed part, one code byte or 22 header bytes, and its operand (R50, R56). -/
def Statement (i : Instr) : Prop :=
  (encode i).length =
    match i with
    | .crcCompute bytes => 1 + bytes.length
    | .encEncode payload => 1 + payload.length
    | .rxFeed chunk => 1 + chunk.length
    | .rxClear => 1
    | .frame _ _ payload => 22 + payload.length

theorem crcCompute (bytes : List Byte) : Statement (.crcCompute bytes) := by
  simp [Statement, encode, Nat.add_comm]

theorem encEncode (payload : List Byte) : Statement (.encEncode payload) := by
  simp [Statement, encode, Nat.add_comm]

theorem rxFeed (chunk : List Byte) : Statement (.rxFeed chunk) := by
  simp [Statement, encode, Nat.add_comm]

theorem rxClear : Statement .rxClear := rfl

theorem frame (length checksum : U48) (payload : List Byte) :
    Statement (.frame length checksum payload) := by
  simp [Statement, encode]

end Sys2Proof.Laws.EncodeSize
end

