-- ==== Sys2Proof/Laws/State.lean ====
section
/-!
SUPPORT. One lemma for each field of State under each update.
-/

namespace Sys2Proof.Machine

variable (s : State) (p : List Byte) (r : Response) (q : List PortEvent)

@[simp] theorem State.setPending_pending : (s.setPending p).pending = p := rfl
@[simp] theorem State.setPending_response : (s.setPending p).response = s.response := rfl
@[simp] theorem State.setPending_port : (s.setPending p).port = s.port := rfl
@[simp] theorem State.setPending_params : (s.setPending p).params = s.params := rfl

@[simp] theorem State.respond_pending : (s.respond r).pending = s.pending := rfl
@[simp] theorem State.respond_response : (s.respond r).response = some r := rfl
@[simp] theorem State.respond_port : (s.respond r).port = s.port := rfl
@[simp] theorem State.respond_params : (s.respond r).params = s.params := rfl

@[simp] theorem State.setPort_pending : (s.setPort q).pending = s.pending := rfl
@[simp] theorem State.setPort_response : (s.setPort q).response = s.response := rfl
@[simp] theorem State.setPort_port : (s.setPort q).port = q := rfl
@[simp] theorem State.setPort_params : (s.setPort q).params = s.params := rfl

@[simp] theorem State.respondNothing_pending : s.respondNothing.pending = s.pending := rfl
@[simp] theorem State.respondNothing_response : s.respondNothing.response = none := rfl
@[simp] theorem State.respondNothing_port : s.respondNothing.port = s.port := rfl
@[simp] theorem State.respondNothing_params : s.respondNothing.params = s.params := rfl

@[simp] theorem State.clearInstance_pending : s.clearInstance.pending = [] := rfl
@[simp] theorem State.clearInstance_response : s.clearInstance.response = none := rfl
@[simp] theorem State.clearInstance_port : s.clearInstance.port = s.port := rfl
@[simp] theorem State.clearInstance_params : s.clearInstance.params = s.params := rfl

/-- The buffer and the response an operation leaves, as one record. -/
theorem State.setPending_respond :
    (s.setPending p).respond r = { s with pending := p, response := some r } := rfl

end Sys2Proof.Machine
end

