-- ==== Sys2Proof/Laws/Rx.lean ====
section
/-!
SUPPORT. What the receiver's shared operations can do, each said once.
-/

namespace Sys2Proof.Machine

/-! ### The comparisons -/

/-- The synchronisation test is an occurrence of the magic at the front (R104). -/
theorem magicAtFront_iff (p : List Byte) : magicAtFront p = true ↔ occursAt p 0 := by
  simp [magicAtFront, memRead, occursAt]

theorem magicAtFront_drop_iff (p : List Byte) (k : Nat) :
    magicAtFront (p.drop k) = true ↔ occursAt p k := by
  rw [magicAtFront_iff, occursAt_drop, Nat.add_zero]

theorem checksumMatches_iff (actual : U32) (claimed : Nat) :
    checksumMatches actual claimed = true ↔ actual.toNat = claimed := by
  simp [checksumMatches]

/-! ### The scan -/

/-- The scan answers the first offset at which the magic occurs (R105). -/
theorem scanFrom_some {p : List Byte} {k n : Nat} (h : scanFrom k p = some n) :
    k ≤ n ∧ occursAt p (n - k) ∧ ∀ j, j < n - k → ¬ occursAt p j := by
  induction p generalizing k with
  | nil => simp [scanFrom] at h
  | cons b rest ih =>
    simp only [scanFrom] at h
    split at h
    · next hm =>
      cases h
      rw [Nat.sub_self]
      exact ⟨Nat.le_refl _, (magicAtFront_iff _).1 hm, by omega⟩
    · next hm =>
      obtain ⟨hk, ho, hl⟩ := ih h
      have e : n - k = (n - (k + 1)) + 1 := by omega
      refine ⟨by omega, ?_, fun j hj => ?_⟩
      · rw [e, Nat.add_comm]
        exact (occursAt_drop (b :: rest) 1 _).1 ho
      · cases j with
        | zero => exact fun h0 => hm ((magicAtFront_iff _).2 h0)
        | succ j =>
          rw [Nat.add_comm, ← occursAt_drop (b :: rest) 1 j]
          exact hl j (by omega)

/-- The scan finds nothing exactly where the magic does not occur (R105). -/
theorem scanFrom_none {p : List Byte} {k : Nat} (h : scanFrom k p = none) :
    ∀ j, ¬ occursAt p j := by
  induction p generalizing k with
  | nil => intro j hj; simpa [magic] using congrArg List.length hj
  | cons b rest ih =>
    simp only [scanFrom] at h
    split at h
    · cases h
    · next hm =>
      intro j
      cases j with
      | zero => exact fun h0 => hm ((magicAtFront_iff _).2 h0)
      | succ j =>
        rw [Nat.add_comm, ← occursAt_drop (b :: rest) 1 j]
        exact ih h j

/-! ### One iteration -/

/-- Everything one iteration can do: the six outcomes of R102. -/
theorem rxIter_cases (p : List Byte) :
    (p.length < headerLen ∧ rxIter p = ⟨p, none, .stop⟩) ∨
    (headerLen ≤ p.length ∧ ¬ occursAt p 0 ∧ ∃ k, findMagic p = some k ∧
      rxIter p = ⟨p.drop k, some (.err (.desyncDiscarded k)), .again⟩) ∨
    (headerLen ≤ p.length ∧ ¬ occursAt p 0 ∧ findMagic p = none ∧
      rxIter p = ⟨p.drop (p.length - tailKeep),
        some (.err (.desyncDiscarded (p.length - tailKeep))), .stop⟩) ∨
    (headerLen ≤ p.length ∧ occursAt p 0 ∧ p.length < headerLen + lengthField p ∧
      rxIter p = ⟨p, none, .stop⟩) ∨
    (headerLen + lengthField p ≤ p.length ∧ occursAt p 0 ∧
      (compute (slice p headerLen (headerLen + lengthField p))).toNat = checksumField p ∧
      rxIter p = ⟨p.drop (headerLen + lengthField p),
        some (.ok (slice p headerLen (headerLen + lengthField p))), .again⟩) ∨
    (headerLen + lengthField p ≤ p.length ∧ occursAt p 0 ∧
      (compute (slice p headerLen (headerLen + lengthField p))).toNat ≠ checksumField p ∧
      rxIter p = ⟨p.drop (headerLen + lengthField p), some (.err .checksumMismatch), .again⟩) := by
  by_cases h1 : p.length < headerLen
  · exact .inl ⟨h1, by rw [rxIter, if_pos h1]⟩
  have h1' := Nat.le_of_not_lt h1
  by_cases h2 : occursAt p 0
  · have hm := (magicAtFront_iff p).2 h2
    by_cases h3 : p.length < headerLen + lengthField p
    · exact .inr (.inr (.inr (.inl ⟨h1', h2, h3, by
        rw [rxIter, if_neg h1, hm, Bool.not_true, if_neg Bool.false_ne_true, if_pos h3]⟩)))
    · have h3' := Nat.le_of_not_lt h3
      have e : rxIter p = takeFrame p := by
        rw [rxIter, if_neg h1, hm, Bool.not_true, if_neg Bool.false_ne_true, if_neg h3]
      by_cases h4 : (compute (slice p headerLen (headerLen + lengthField p))).toNat = checksumField p
      · exact .inr (.inr (.inr (.inr (.inl ⟨h3', h2, h4, by
          rw [e]
          simp only [takeFrame, memRead, (checksumMatches_iff _ _).2 h4, if_true]
          rfl⟩))))
      · exact .inr (.inr (.inr (.inr (.inr ⟨h3', h2, h4, by
          rw [e]
          simp only [takeFrame, memRead, mt (checksumMatches_iff _ _).1 h4]
          rfl⟩))))
  · have e : rxIter p = recover p := by
      rw [rxIter, if_neg h1, Bool.eq_false_iff.2 (mt (magicAtFront_iff p).1 h2), Bool.not_false,
        if_pos rfl]
    cases h3 : findMagic p with
    | some k => exact .inr (.inl ⟨h1', h2, k, rfl, by rw [e, recover, h3]; rfl⟩)
    | none => exact .inr (.inr (.inl ⟨h1', h2, rfl, by rw [e, recover, h3]; rfl⟩))

/-! ### The loop -/

/-- The results so far only stand before those that follow. -/
theorem rxLoop_results (fuel : Nat) (p : List Byte) (results : List Result) :
    rxLoop fuel p results = ((rxLoop fuel p []).1, results ++ (rxLoop fuel p []).2) := by
  induction fuel generalizing p results with
  | zero => simp [rxLoop]
  | succ fuel ih =>
    simp only [rxLoop]
    cases (rxIter p).control with
    | stop => simp [emit]
    | again =>
      simp only
      rw [ih, ih _ (emit [] _)]
      simp [emit, List.append_assoc]

/-! ### A chunk taken -/

/-- A chunk is taken whole or not at all. -/
theorem receive_next {chunk : List Byte} {s t : State} (h : receive chunk s = .next t) :
    operandFits s.params chunk = true ∧ chunkFits s.params s.pending chunk = true ∧
    t = { s with pending := (feed s.pending chunk).1, response := some (.received (feed s.pending chunk).2) } := by
  unfold receive at h
  split at h
  · next h1 =>
    split at h
    · next h2 => cases h; exact ⟨h1, h2, rfl⟩
    · cases h
  · cases h

/-- A chunk within the bounds is taken. -/
theorem receive_of_fits {chunk : List Byte} {s : State} (h1 : operandFits s.params chunk = true)
    (h2 : chunkFits s.params s.pending chunk = true) :
    receive chunk s = .next { s with
      pending := (feed s.pending chunk).1
      response := some (.received (feed s.pending chunk).2) } := by
  rw [receive, if_pos h1, if_pos h2, State.setPending_respond]

end Sys2Proof.Machine
end

