-- ==== Sys2Proof/Laws/Step.lean ====
section
/-!
SUPPORT. What an operation and a step can do, each said once.
-/

namespace Sys2Proof.Machine

/-- Everything an operation that completes can do. -/
theorem exec_cases {i : Instr} {s t : State} (h : exec i s = .next t) :
    (∃ bytes, i = .crcCompute bytes ∧ t = s.respond (.checksum (compute bytes))) ∨
    (∃ payload, i = .encEncode payload ∧ t = s.respond (.encoded (encodeFrame payload))) ∨
    (i = .rxClear ∧ t = s.clearInstance) ∨
    (∃ chunk, ((i = .rxFeed chunk) ∨ ∃ n c p, i = .frame n c p ∧ chunk = frameBytes n.toNat c.toNat p) ∧
      receive chunk s = .next t) := by
  cases i with
  | crcCompute bytes =>
    simp only [exec, execCrcCompute] at h
    split at h
    · cases h; exact .inl ⟨_, rfl, rfl⟩
    · cases h
  | encEncode payload =>
    simp only [exec, execEncEncode] at h
    split at h
    · cases h; exact .inr (.inl ⟨_, rfl, rfl⟩)
    · cases h
  | rxFeed chunk => exact .inr (.inr (.inr ⟨chunk, .inl rfl, h⟩))
  | rxClear => cases h; exact .inr (.inr (.inl ⟨rfl, rfl⟩))
  | frame n c p => exact .inr (.inr (.inr ⟨_, .inr ⟨n, c, p, rfl, rfl⟩, h⟩))

/-- An operation works on the buffer unless it is `CRC.COMPUTE` or `ENC.ENCODE`. -/
theorem onInstance_eq_true_iff {i : Instr} :
    onInstance i = true ↔ (∃ chunk, i = .rxFeed chunk) ∨ i = .rxClear ∨ ∃ n c p, i = .frame n c p := by
  cases i <;> simp [onInstance]

/-- And it does not when it is one of the two. -/
theorem onInstance_eq_false_iff {i : Instr} :
    onInstance i = false ↔ (∃ b, i = .crcCompute b) ∨ ∃ b, i = .encEncode b := by
  cases i <;> simp [onInstance]

/-- Issuing an operation runs it, unless it would be the second one on the buffer. -/
theorem issue_eq_exec {i : Instr} {inProgress : List Instr} (s : State)
    (h : overlaps i inProgress = false) : issue i inProgress s = exec i s := by simp [issue, h]

/-- Everything a step that completes can do. -/
theorem step_cases {s t : State} (h : step s = .next t) :
    (s.port = [] ∧ t = s.respondNothing) ∨
    (∃ rest, s.port = .reset :: rest ∧ t = (s.setPort rest).clearInstance) ∨
    (∃ format bytes inProgress rest i, s.port = .issue format bytes inProgress :: rest ∧
      decode format bytes = .ok i ∧ overlaps i inProgress = false ∧
      exec i (s.setPort rest) = .next t) := by
  unfold step takeRequest at h
  split at h
  · next hp => cases h; exact .inl ⟨hp, rfl⟩
  · next rest hp => cases h; exact .inr (.inl ⟨rest, hp, rfl⟩)
  · next format bytes inProgress rest hp =>
    split at h
    · next i hd =>
      unfold issue at h
      split at h
      · cases h
      · next ho => exact .inr (.inr ⟨_, _, _, _, i, hp, hd, by simpa using ho, h⟩)
    · cases h

end Sys2Proof.Machine
end

