-- ==== Sys2Proof/Tests/Slice0.lean ====
section
/-!
SUPPORT. Tests. Every expected value is the spec's: a vector V<n> of 95_test_vectors.md, a worked example or
a table of the rule named. The witnesses at the end meet the hypotheses of the statements.
-/

namespace Sys2Proof.Tests

open Sys2Proof.Machine

/-! ### Byte strings of the vectors, written out -/

/-- `frame("A")`, V26. -/
def frameA : List Byte :=
  [0x00, 0x01, 0x01, 0x02, 0x03, 0x05, 0x08, 0x0D, 0x15, 0x22, 0x01, 0x00, 0x00, 0x00, 0x00, 0x00,
   0x8B, 0x9E, 0xD9, 0xD3, 0x00, 0x00, 0x41]

/-- `frame("abc")`, 95_test_vectors.md section 4. -/
def frameAbc : List Byte :=
  [0x00, 0x01, 0x01, 0x02, 0x03, 0x05, 0x08, 0x0D, 0x15, 0x22, 0x03, 0x00, 0x00, 0x00, 0x00, 0x00,
   0xC2, 0x41, 0x24, 0x35, 0x00, 0x00, 0x61, 0x62, 0x63]

/-- `frame("hello")`, 95_test_vectors.md section 4. -/
def frameHello : List Byte :=
  [0x00, 0x01, 0x01, 0x02, 0x03, 0x05, 0x08, 0x0D, 0x15, 0x22, 0x05, 0x00, 0x00, 0x00, 0x00, 0x00,
   0x86, 0xA6, 0x10, 0x36, 0x00, 0x00, 0x68, 0x65, 0x6C, 0x6C, 0x6F]

/-- The bytes 40 to 5D, the junk of V33. -/
def junk30 : List Byte :=
  [0x40, 0x41, 0x42, 0x43, 0x44, 0x45, 0x46, 0x47, 0x48, 0x49, 0x4A, 0x4B, 0x4C, 0x4D, 0x4E] ++
  [0x4F, 0x50, 0x51, 0x52, 0x53, 0x54, 0x55, 0x56, 0x57, 0x58, 0x59, 0x5A, 0x5B, 0x5C, 0x5D]

/-- A state with this buffer and these requests, otherwise as after reset. -/
def stateWith (pending : List Byte) (port : List PortEvent) : State :=
  (State.reset.setPending pending).setPort port

/-- A state with finite bounds. -/
def bounded (cap chunk : Nat) : State :=
  { State.reset with params := { pendingCap := some cap, chunkMax := some chunk } }

/-- The state after one operation, as far as the host sees it: buffer and response. -/
def seen (o : Host.Outcome State Fault Refusal) : Option (List Byte × Option Response) :=
  (nextState o).map fun s => (s.pending, s.response)

/-! ### Well-formedness -/

theorem test_wf_refuses_short_payload : Instr.wf (.frame 2 0 [0x41]) = false := by decide
theorem test_wf_refuses_long_payload : Instr.wf (.frame 0 0 [0x41]) = false := by decide
theorem test_wf_frame : Instr.wf (.frame 1 0xD3D99E8B [0x41]) = true := by decide

/-! ### Decoding: words written out from R56 and R50 -/

theorem test_decode_crc : decode .cmd [0x01, 0x61, 0x62, 0x63] = .ok (.crcCompute [0x61, 0x62, 0x63]) := by
  decide
theorem test_decode_enc : decode .cmd [0x02, 0x41] = .ok (.encEncode [0x41]) := by decide
theorem test_decode_feed : decode .cmd [0x03, 0x00, 0x01] = .ok (.rxFeed [0x00, 0x01]) := by decide
theorem test_decode_clear : decode .cmd [0x04] = .ok .rxClear := by decide
theorem test_decode_frame : decode .wire frameA = .ok (.frame 1 0xD3D99E8B [0x41]) := by decide
theorem test_decode_reserved_low : decode .cmd [0x00] = .error (.reservedCode 0x00) := by decide
theorem test_decode_reserved_next : decode .cmd [0x05, 0x01] = .error (.reservedCode 0x05) := by decide
theorem test_decode_clear_operand : decode .cmd [0x04, 0x00] = .error (.operandAfterClear [0x00]) := by
  decide
theorem test_decode_no_code : decode .cmd [] = .error .noCode := by decide
theorem test_decode_frame_as_command : decode .cmd frameA = .error (.reservedCode 0x00) := by decide
theorem test_decode_cut_frame : decode .wire (frameA.take 22) = .error .payloadIncomplete := by decide
theorem test_decode_cut_header : decode .wire (frameA.take 21) = .error .headerIncomplete := by decide
theorem test_decode_two_frames : decode .wire (frameA ++ [0x00]) = .error .bytesAfterFrame := by decide
theorem test_decode_bad_magic : decode .wire (frameA.set 9 0x23) = .error .notMagic := by decide

theorem test_table_word_crc : decodeTableWord 8 0x01 = some (.crcCompute []) := by decide
theorem test_table_word_enc : decodeTableWord 8 0x02 = some (.encEncode []) := by decide
theorem test_table_word_feed : decodeTableWord 8 0x03 = some (.rxFeed []) := by decide
theorem test_table_word_clear : decodeTableWord 8 0x04 = some .rxClear := by decide
theorem test_table_word_reserved : decodeTableWord 8 0x05 = none := by decide
theorem test_table_word_frame :
    decodeTableWord 176 0x000101020305080D1522000000000000000000000000 = some (.frame 0 0 []) := by decide
/-- The same frame with byte 0 in bits 7..0. -/
theorem test_table_word_frame_low_first :
    decodeTableWord 176 0x22150D08050302010100 = some (.frame 0 0 []) := by decide

/-! ### Fields: the encodings listed under V29 -/

theorem test_length_field_256 : encLe48 256 = [0x00, 0x01, 0x00, 0x00, 0x00, 0x00] := by decide
theorem test_length_field_greatest : encLe48 (2 ^ 48 - 1) = [0xFF, 0xFF, 0xFF, 0xFF, 0xFF, 0xFF] := by decide
theorem test_length_field_2_32 : le48 [0x00, 0x00, 0x00, 0x00, 0x01, 0x00] = 2 ^ 32 := by decide

/-! ### The checksum unit -/

theorem test_table_entries : tableRead 1 = 0x77073096 ∧ tableRead 2 = 0xEE0E612C ∧
    tableRead 128 = 0xEDB88320 ∧ tableRead 255 = 0x2D02EF8D := by decide
/-- V20: the rounds for the index 1. -/
theorem test_table_rounds : crcRound 1 = 0xEDB88320 ∧ crcRounds 7 1 = 0xEE0E612C ∧
    tableEntry 1 = 0x77073096 := by decide
/-- R72's worked example. -/
theorem test_update : crcUpdate 0xFFFFFFFF 0x61 = 0x174841BC := by decide
/-- V2, the source's own vector; V3 is what an arithmetic shift would give. -/
theorem test_compute_check :
    compute [0x31, 0x32, 0x33, 0x34, 0x35, 0x36, 0x37, 0x38, 0x39] = 0xCBF43926 := by decide
/-- V5, V15 and V17. -/
theorem test_compute_ff : compute [0xFF] = 0xFF000000 ∧ compute [0, 0, 0, 0] = 0x2144DF1C ∧
    compute magic = 0xCE098C10 := by decide
/-- V10 through the command. -/
theorem test_exec_crc : seen (exec (.crcCompute [0x61, 0x62, 0x63]) State.reset)
    = some ([], some (.checksum 0x352441C2)) := by decide

/-! ### The encoder unit -/

/-- V26. -/
theorem test_exec_encode : seen (exec (.encEncode [0x41]) State.reset)
    = some ([], some (.encoded (.ok frameA))) := by decide
/-- V25. -/
theorem test_exec_encode_empty : seen (exec (.encEncode []) State.reset)
    = some ([], some (.encoded (.ok (magic ++ List.replicate 12 0)))) := by decide

/-! ### The receiver unit -/

/-- V32. -/
theorem test_feed_three : feed [] (frameA ++ frameHello ++ frameAbc)
    = ([], [.ok [0x41], .ok [0x68, 0x65, 0x6C, 0x6C, 0x6F], .ok [0x61, 0x62, 0x63]]) := by decide
/-- V33 and V34. -/
theorem test_feed_junk_one_chunk : feed [] (junk30 ++ frameA)
    = ([], [.err (.desyncDiscarded 30), .ok [0x41]]) := by decide
theorem test_feed_junk_two_chunks :
    feed [] junk30 = (junk30.drop 21, [.err (.desyncDiscarded 21)]) ∧
    feed (junk30.drop 21) frameA = ([], [.err (.desyncDiscarded 9), .ok [0x41]]) := by decide
/-- V35. -/
theorem test_feed_corrupt_payload : feed [] (frameA ++ frameHello.set 26 0x6E ++ frameAbc)
    = ([], [.ok [0x41], .err .checksumMismatch, .ok [0x61, 0x62, 0x63]]) := by decide
/-- V37. -/
theorem test_feed_high_checksum_byte : feed [] (frameA.set 21 0x01) = ([], [.err .checksumMismatch]) := by
  decide
/-- V40. -/
theorem test_feed_corrupt_length : feed [] (frameA.set 10 0x03 ++ frameAbc)
    = ([0xC2, 0x41, 0x24, 0x35, 0x00, 0x00, 0x61, 0x62, 0x63],
       [.err .checksumMismatch, .err (.desyncDiscarded 14)]) := by decide
/-- V41: 21 bytes stay, 22 are cut down to 9. -/
theorem test_feed_threshold :
    feed [] (List.replicate 21 0xAA) = (List.replicate 21 0xAA, []) ∧
    feed [] (List.replicate 22 0xAA) = (List.replicate 9 0xAA, [.err (.desyncDiscarded 13)]) := by decide
/-- V45: the announced length is 2^48 - 1, and the sum does not wrap. -/
theorem test_feed_huge_length :
    feed [] ([0xAA, 0xAA, 0xAA] ++ magic ++ List.replicate 6 0xFF ++ List.replicate 6 0x00 ++ frameA)
      = (magic ++ List.replicate 6 0xFF ++ List.replicate 6 0x00 ++ frameA,
         [.err (.desyncDiscarded 3)]) := by decide
/-- V36: a payload that is the magic sequence. -/
theorem test_feed_magic_payload : feed [] (frameOf magic) = ([], [.ok magic]) := by decide
/-- R100's worked example. -/
theorem test_exec_clear : seen (exec .rxClear (stateWith [0x00, 0x01, 0x01, 0x02, 0x03] []))
    = some ([], none) := by decide
/-- V26 as the frame of the table's row FRAME. -/
theorem test_exec_frame : seen (exec (.frame 1 0xD3D99E8B [0x41]) State.reset)
    = some ([], some (.received [.ok [0x41]])) := by decide
/-- The last note of Program 4: the bytes of two connections without `RX.CLEAR` between. -/
theorem test_exec_feed_without_clear :
    seen (exec (.rxFeed (frameOf [])) (stateWith ((frameOf
      [0x31, 0x32, 0x33, 0x34, 0x35, 0x36, 0x37, 0x38, 0x39]).take 25) []))
    = some ([0x08, 0x0D, 0x15, 0x22] ++ List.replicate 12 0x00, some (.received [.err .checksumMismatch])) := by
  decide

/-- The tags of R57. -/
theorem test_result_tags : resultTag (.ok []) = 0 ∧ resultTag (raise .payloadTooLarge) = 1 ∧
    resultTag (raise (.desyncDiscarded 13)) = 2 ∧ resultTag (raise .checksumMismatch) = 3 := by decide

/-! ### Steps -/

theorem test_step_feed : seen (step (State.reset.withFetchWord 8 0x03)) = some ([], some (.received [])) := by
  decide
theorem test_step_frame :
    seen (step (State.reset.withFetchWord 176 0x000101020305080D1522000000000000000000000000))
      = some ([], some (.received [.ok []])) := by decide
theorem test_step_reset : seen (step (stateWith [0x41] [.reset])) = some ([], none) := by decide
theorem test_step_overlap_refused :
    step (stateWith [] [.issue .cmd [0x03, 0x41] [.crcCompute [], .rxFeed []]])
      = .refused .overlappingOperation := rfl
/-- R40, from either side: `CRC.COMPUTE` beside an `RX.FEED`, and `RX.FEED` beside the two pure operations. -/
theorem test_step_overlap_exempt :
    seen (step (stateWith [0x41] [.issue .cmd [0x01] [.rxFeed []]])) = some ([0x41], some (.checksum 0)) ∧
    seen (step (stateWith [0x41] [.issue .cmd [0x03, 0x42] [.crcCompute [], .encEncode []]]))
      = some ([0x41, 0x42], some (.received [])) := by decide
/-- R165: one operation, one response, however many steps the run goes on. -/
theorem test_run_lists_each_response_once :
    (run 3 (stateWith [] (feedRequests [[]]))).map (·.2) = some [.received []] := by decide
theorem test_bounds_refuse : seen (exec (.rxFeed [0x01, 0x02]) (bounded 1 8)) = none ∧
    seen (exec (.rxFeed [0x01, 0x02]) (bounded 2 2)) = some ([0x01, 0x02], some (.received [])) ∧
    seen (exec (.crcCompute [0x01, 0x02]) (bounded 8 1)) = none := by decide

/-! ### Witnesses: states and operands that meet the hypotheses of the statements -/

theorem noMagic_of_short {s : List Byte} (h : s.length < 10) : ∀ k, ¬ occursAt s k := by
  intro k hk
  have := occursAt_le hk
  simp at this
  omega

theorem noMagic_junk30 : ∀ k, ¬ occursAt junk30 k := by
  intro k hk
  have h : k + 10 ≤ 30 := occursAt_le hk
  have all : ∀ k : Fin 21, ¬ occursAt junk30 k := by decide
  exact all ⟨k, by omega⟩ hk

theorem witness_TableEntryIsEightRounds : ∃ round : U32 → U32,
    ∀ c : U32, round c = if c &&& 1 ≠ 0 then 0xEDB88320 ^^^ (c >>> 1) else c >>> 1 := ⟨_, fun _ => rfl⟩

theorem witness_MagicOccurrencesDoNotOverlap_border : 0 < 9 ∧ 9 < 10 := by decide
theorem witness_MagicOccurrencesDoNotOverlap_two :
    occursAt (magic ++ magic) 0 ∧ occursAt (magic ++ magic) 10 ∧ 0 < 10 := by decide
theorem witness_MagicOccurrencesDoNotOverlap_first :
    occursAt frameA 0 ∧ ∀ k, ¬ occursAt [0x00, 0x01] k := ⟨by decide, noMagic_of_short (by decide)⟩

/-- For CrcComputeAnswersTheChecksum, whose hypothesis is that the operand fits: an operand exactly at a
finite bound, and one under the default parameters. -/
theorem witness_CrcComputeAnswersTheChecksum : operandFits (bounded 40 23).params frameA = true ∧
    operandFits State.reset.params frameA = true := by decide
/-- For FeedAppendsAndRunsTheLoop and BufferIsAQueue, and the same two hypotheses of the other statements
about `RX.FEED`: a chunk that fills a finite buffer exactly. -/
theorem witness_FeedAppendsAndRunsTheLoop :
    operandFits (bounded 23 23).params frameA = true ∧
    chunkFits (bounded 23 23).params (bounded 23 23).pending frameA = true := by decide
theorem witness_ChecksumAndEncoderArePure :
    operandFits State.reset.params [0x41] = true ∧ operandFits (bounded 1 1).params [0x41] = true := by decide

theorem witness_OneChangedByteChangesTheChecksum :
    ([0x41] : List Byte).length = [0x42].length ∧ 0 < ([0x41] : List Byte).length ∧
    ([0x41] : List Byte)[0]? ≠ ([0x42] : List Byte)[0]? ∧
    ∀ j, j ≠ 0 → ([0x41] : List Byte)[j]? = ([0x42] : List Byte)[j]? := by
  refine ⟨rfl, by decide, by decide, fun j hj => ?_⟩
  cases j with
  | zero => exact absurd rfl hj
  | succ j => rfl

theorem witness_EncodedFrameHasTheWireLayout :
    operandFits State.reset.params [0x41] = true ∧ ([0x41] : List Byte).length < 2 ^ 48 := by decide
/-- The boundary: 2^48 - 1 bytes are taken, 2^48 are not. -/
theorem witness_EncoderRefusesExactlyTheOversize :
    operandFits State.reset.params (List.replicate (2 ^ 48) 0) = true ∧
    2 ^ 48 ≤ (List.replicate (2 ^ 48) (0 : Byte)).length ∧
    operandFits State.reset.params (List.replicate (2 ^ 48 - 1) 0) = true ∧
    ¬ 2 ^ 48 ≤ (List.replicate (2 ^ 48 - 1) (0 : Byte)).length :=
  ⟨rfl, by rw [List.length_replicate], rfl, by rw [List.length_replicate]; omega⟩

theorem witness_PayloadTooLargeIsTheEncodersAlone :
    operandFits State.reset.params (List.replicate (2 ^ 48) 0) = true ∧
    2 ^ 48 ≤ (List.replicate (2 ^ 48) (0 : Byte)).length := ⟨rfl, by rw [List.length_replicate]⟩
theorem witness_BufferIsAQueue : operandFits (bounded 23 23).params frameA = true ∧
    chunkFits (bounded 23 23).params (bounded 23 23).pending frameA = true := by decide

theorem witness_HeaderFieldsAreLittleEndian : 22 ≤ frameA.length ∧ ([] : List Byte).length < 2 ^ 48 := by decide
theorem witness_DecodeOfEncodeIsTheOperation : Instr.wf (.frame 1 0xFFFFFFFFFFFF [0x41]) = true ∧
    Instr.wf .rxClear = true := by decide
theorem witness_EncodeOfDecodeIsTheBytes : decode .wire frameAbc = .ok (.frame 3 0x352441C2 [0x61, 0x62, 0x63]) ∧
    decode .cmd [0x04] = .ok .rxClear := by decide
theorem witness_ReservedCodesHaveNoStep :
    ((0x00 : Byte).toNat = 0 ∨ 5 ≤ (0x00 : Byte).toNat) ∧ ((0x05 : Byte).toNat = 0 ∨ 5 ≤ (0x05 : Byte).toNat) ∧
    (stateWith [] [.issue .cmd [0x05] []]).port = .issue .cmd [0x05] [] :: [] := by decide
theorem witness_StepRunsTheIssuedOperation :
    (stateWith [] [.issue .cmd [0x04] [.crcCompute []]]).port = .issue .cmd [0x04] [.crcCompute []] :: [] ∧
    decode .cmd [0x04] = .ok .rxClear ∧
    ∀ j ∈ [Instr.crcCompute []], (∃ b, j = .crcCompute b) ∨ ∃ b, j = .encEncode b :=
  ⟨rfl, by decide, by simp⟩
theorem witness_StepRunsTheIssuedOperation_overlapping :
    (stateWith [] [.issue .cmd [0x01] [.rxClear]]).port = .issue .cmd [0x01] [.rxClear] :: [] ∧
    decode .cmd [0x01] = .ok (.crcCompute []) ∧ ∃ b, Instr.crcCompute [] = .crcCompute b :=
  ⟨rfl, by decide, [], rfl⟩
theorem witness_StepIdlesAndResets : (stateWith [0x41] []).port = [] ∧
    (stateWith [0x41] [.reset]).port = .reset :: [] := by decide
theorem witness_OverlappingReceiverOperationIsRefused :
    (stateWith [] [.issue .wire frameA [.rxClear]]).port = .issue .wire frameA [.rxClear] :: [] ∧
    decode .wire frameA = .ok (.frame 1 0xD3D99E8B [0x41]) ∧
    (stateWith [] [.issue .cmd [0x03] [.encEncode []]]).port = .issue .cmd [0x03] [.encEncode []] :: [] ∧
    decode .cmd [0x03] = .ok (.rxFeed []) := by decide
theorem witness_FiniteBoundsRefuse :
    (bounded 1 1).params.chunkMax = some 1 ∧ 1 < ([0x01, 0x02] : List Byte).length ∧
    (bounded 1 2).params.pendingCap = some 1 ∧ operandFits (bounded 1 2).params [0x01, 0x02] = true ∧
    1 < (bounded 1 2).pending.length + ([0x01, 0x02] : List Byte).length := by decide
theorem witness_FiniteBoundsRefuse_frame :
    frameA = magic ++ encLe48 (1 : U48).toNat ++ encLe48 (0xD3D99E8B : U48).toNat ++ [0x41] ∧
    (bounded 22 22).params.chunkMax = some 22 ∧ 22 < frameA.length ∧
    (bounded 22 23).params.pendingCap = some 22 ∧ operandFits (bounded 22 23).params frameA = true ∧
    22 < (bounded 22 23).pending.length + frameA.length := by decide
theorem witness_EveryOperationCompletesByDefault :
    (stateWith [] [.issue .cmd [0x03] [.encEncode []]]).params = { pendingCap := none, chunkMax := none } ∧
    (stateWith [] [.issue .cmd [0x03] [.encEncode []]]).port = .issue .cmd [0x03] [.encEncode []] :: [] ∧
    decode .cmd [0x03] = .ok (.rxFeed []) ∧
    ∀ j ∈ [Instr.encEncode []], (∃ b, j = .crcCompute b) ∨ ∃ b, j = .encEncode b :=
  ⟨rfl, rfl, by decide, by simp⟩
theorem witness_OperationsLeaveTheRestAlone : ∃ t, exec (.crcCompute []) (stateWith [0x41] [.reset]) = .next t ∧
    t.port = [.reset] := ⟨_, rfl, rfl⟩
theorem witness_BufferIsWrittenByTheReceiverAlone :
    ∃ t, step (stateWith [0x41] [.issue .cmd [0x04] []]) = .next t ∧ t.pending ≠ [0x41] :=
  ⟨_, rfl, by decide⟩

/-- The six conditions of R102, each at its boundary. -/
theorem witness_IterationHasSixOutcomes :
    (frameA.take 21).length < 22 ∧
    (22 ≤ (0x00 :: frameA).length ∧ ¬ occursAt (0x00 :: frameA) 0 ∧ occursAt (0x00 :: frameA) 1) ∧
    (22 ≤ (List.replicate 22 (0xAA : Byte)).length ∧ ¬ occursAt (List.replicate 22 0xAA) 0) ∧
    (22 ≤ (frameA.take 22).length ∧ occursAt (frameA.take 22) 0 ∧
      (frameA.take 22).length < 22 + le48 (slice (frameA.take 22) 10 16)) ∧
    (22 ≤ frameA.length ∧ occursAt frameA 0 ∧ 22 + le48 (slice frameA 10 16) ≤ frameA.length ∧
      (compute (slice frameA 22 23)).toNat = le48 (slice frameA 16 22)) ∧
    (compute (slice (frameA.set 22 0x42) 22 23)).toNat ≠ le48 (slice (frameA.set 22 0x42) 16 22) := by decide
theorem witness_IterationHasSixOutcomes_noMagic : 22 ≤ junk30.length ∧ ∀ k, ¬ occursAt junk30 k :=
  ⟨by decide, noMagic_junk30⟩

theorem witness_NothingIsExaminedBelowTwentyTwoBytes :
    ([] ++ List.replicate 21 (0xAA : Byte)).length < 22 ∧ 22 ≤ ([] ++ List.replicate 22 (0xAA : Byte)).length ∧
    ¬ occursAt ([] ++ List.replicate 22 0xAA) 0 := by decide
theorem witness_FrameIsTakenExactlyWhenWhole :
    22 ≤ (frameA.take 5 ++ (frameA.drop 5).take 17).length ∧ occursAt (frameA.take 5 ++ (frameA.drop 5).take 17) 0 ∧
    (frameA.take 5 ++ (frameA.drop 5).take 17).length < 22 + lengthField (frameA.take 5 ++ (frameA.drop 5).take 17) ∧
    22 + lengthField (frameA.take 5 ++ frameA.drop 5) ≤ (frameA.take 5 ++ frameA.drop 5).length := by decide
theorem witness_WholeFrameIsConsumedEitherWay :
    22 ≤ (frameA ++ frameAbc).length ∧ occursAt (frameA ++ frameAbc) 0 ∧ lengthField (frameA ++ frameAbc) = 1 ∧
    22 + 1 ≤ (frameA ++ frameAbc).length ∧ slice (frameA ++ frameAbc) 22 23 = [0x41] ∧
    (frameA ++ frameAbc).drop 23 = frameAbc := by decide
theorem witness_HighChecksumBytesNeverMatch :
    ([0x41] : List Byte).length = (1 : U48).toNat ∧ 2 ^ 32 ≤ (0x000100000000 : U48).toNat ∧
    State.reset.pending = [] ∧
    operandFits State.reset.params (encode (.frame 1 0x000100000000 [0x41])) = true ∧
    chunkFits State.reset.params State.reset.pending (encode (.frame 1 0x000100000000 [0x41])) = true := by decide
theorem witness_FrameIsFedWhole :
    frameA = magic ++ encLe48 (1 : U48).toNat ++ encLe48 (0xD3D99E8B : U48).toNat ++ [0x41] ∧
    operandFits State.reset.params frameA = true ∧
    chunkFits State.reset.params State.reset.pending frameA = true := by decide
theorem witness_LoneFrameIsJudgedByItsChecksum :
    (Instr.frame 1 0xD3D99E8B [0x41]).wf = true ∧ State.reset.pending = [] ∧
    operandFits State.reset.params (encode (.frame 1 0xD3D99E8B [0x41])) = true ∧
    chunkFits State.reset.params State.reset.pending (encode (.frame 1 0xD3D99E8B [0x41])) = true := by decide
theorem witness_LoopEndsWithinItsBound :
    (rxIter (0x00 :: frameA)).control = .again ∧
    (rxIter (0x00 :: frameA)).out = some (.err (.desyncDiscarded 1)) ∧ frameA.length + 1 ≤ 24 := by decide
theorem witness_DiscardCountsAreTrue :
    (rxIter (List.replicate 22 0xAA)).out = some (.err (.desyncDiscarded 13)) ∧
    (rxIter (List.replicate 22 0xAA)).control = .stop ∧
    (rxIter (0x00 :: frameA)).out = some (.err (.desyncDiscarded 1)) := by decide
theorem witness_EveryFeedLeavesAQuiescentBuffer :
    22 ≤ ([] ++ junk30).length ∧ ∀ k, ¬ occursAt ([] ++ junk30) k := ⟨by decide, noMagic_junk30⟩

/-- A buffer that waits for a payload, and the last byte of its frame at the port. -/
theorem witness_StepKeepsTheInvariant :
    Inv (stateWith (frameA.take 22) [.issue .cmd [0x03, 0x41] []]) ∧
    ∃ t, step (stateWith (frameA.take 22) [.issue .cmd [0x03, 0x41] []]) = .next t ∧ t.pending = [] :=
  ⟨by decide, _, rfl, by decide⟩
theorem witness_EmptyChunkChangesNothing : Quiescent (frameA.take 22) ∧
    operandFits (bounded 22 0).params [] = true ∧ chunkFits (bounded 22 0).params (frameA.take 22) [] = true := by
  decide

/-- `frame("A")` in three chunks, one of them empty. -/
theorem witness_PayloadsAreChunkIndependent :
    (∀ p ∈ ([[0x41]] : List (List Byte)), p.length < 2 ^ 48) ∧
    [frameA.take 5, [], frameA.drop 5].flatten = (([[0x41]] : List (List Byte)).map frameOf).flatten ∧
    (stateWith [] (feedRequests [frameA.take 5, [], frameA.drop 5])).pending = [] ∧
    (∀ chunk ∈ [frameA.take 5, [], frameA.drop 5], operandFits State.reset.params chunk = true) ∧
    chunkFits State.reset.params [] [frameA.take 5, [], frameA.drop 5].flatten = true := by decide
theorem witness_OneFeedDrainsThreeFrames :
    ([] : List Byte).length < 2 ^ 48 ∧ State.reset.pending = [] ∧
    operandFits State.reset.params (frameOf [] ++ frameOf [0x41] ++ frameOf [0x42]) = true ∧
    chunkFits State.reset.params State.reset.pending (frameOf [] ++ frameOf [0x41] ++ frameOf [0x42]) = true := by
  decide
theorem witness_FlippedPayloadBitIsDetected :
    ([0x41] : List Byte).length < 2 ^ 48 ∧ 0 < ([0x41] : List Byte).length ∧ 7 < 8 ∧
    (∀ p ∈ ([[0x42]] : List (List Byte)), p.length < 2 ^ 48) ∧ State.reset.pending = [] ∧
    operandFits State.reset.params
      ((frameOf [0x41]).take 22 ++ [0x41 ^^^ (1#8 <<< 7)] ++ (([[0x42]] : List (List Byte)).map frameOf).flatten) = true ∧
    chunkFits State.reset.params State.reset.pending
      ((frameOf [0x41]).take 22 ++ [0x41 ^^^ (1#8 <<< 7)] ++ (([[0x42]] : List (List Byte)).map frameOf).flatten) = true := by
  decide
theorem witness_FrameAfterJunkIsFound :
    (∀ k, ¬ occursAt [0x00, 0x01] k) ∧ ([0x41] : List Byte).length < 2 ^ 48 ∧ State.reset.pending = [] ∧
    operandFits State.reset.params ([0x00, 0x01] ++ frameOf [0x41]) = true ∧
    chunkFits State.reset.params State.reset.pending ([0x00, 0x01] ++ frameOf [0x41]) = true :=
  ⟨noMagic_of_short (by decide), by decide⟩
/-- Thirty junk bytes and a frame whose magic is cut 4 and 6. -/
theorem witness_FrameAfterJunkSurvivesAnyChunking :
    (∀ k, ¬ occursAt junk30 k) ∧ ([0x41] : List Byte).length < 2 ^ 48 ∧
    [junk30 ++ frameA.take 4, frameA.drop 4].flatten = junk30 ++ frameOf [0x41] ∧
    (stateWith [] (feedRequests [junk30 ++ frameA.take 4, frameA.drop 4])).pending = [] ∧
    (∀ chunk ∈ [junk30 ++ frameA.take 4, frameA.drop 4], operandFits State.reset.params chunk = true) ∧
    chunkFits State.reset.params [] [junk30 ++ frameA.take 4, frameA.drop 4].flatten = true :=
  ⟨noMagic_junk30, by decide⟩
theorem witness_AnnouncedPayloadIsAwaitedWithoutLimit :
    WaitingForPayload (magic ++ List.replicate 6 0xFF ++ List.replicate 6 0x00) ∧
    ((magic ++ List.replicate 6 0xFF ++ List.replicate 6 0x00) ++ [frameA, []].flatten).length
      < 22 + lengthField (magic ++ List.replicate 6 0xFF ++ List.replicate 6 0x00) ∧
    (∀ chunk ∈ [frameA, []], operandFits State.reset.params chunk = true) ∧
    chunkFits State.reset.params (magic ++ List.replicate 6 0xFF ++ List.replicate 6 0x00)
      [frameA, []].flatten = true := by decide

/-- One operation, then idle steps. -/
theorem witness_IdleStepsAddNothingToARun :
    ∃ t, run 1 (stateWith [] (feedRequests [[]])) = some (t, [.received []]) ∧ t.port = [] := ⟨_, rfl, rfl⟩
/-- An `RX.FEED` and an `RX.CLEAR`. -/
theorem witness_RunGivesOneResponsePerOperation :
    State.reset.params = { pendingCap := none, chunkMax := none } ∧
    (∀ i ∈ [Instr.rxFeed [0x41], .rxClear], i.wf = true) ∧
    (stateWith [] [.issue .cmd [0x03, 0x41] [], .issue .cmd [0x04] []]).port
      = [Instr.rxFeed [0x41], .rxClear].map (fun i => .issue (formatOf i) (encode i) []) := by decide

end Sys2Proof.Tests
end

namespace Sys2Proof

/-- Settles O1: each constant is a closed term, and evaluating it gives the value the spec's tables
list (R10 for the wire format, R13 for the checksum). -/
theorem constantsHaveTheirValues : Obligations.ConstantsHaveTheirValues := by
  unfold Obligations.ConstantsHaveTheirValues
  decide

end Sys2Proof

namespace Sys2Proof.Machine

/-! ### The buffer under `RX.FEED` is a queue (R31)

"Bytes leave only from the front" is the suffix relation: what an iteration, the loop or a feed leaves is
a suffix of what it had. -/

theorem rxIter_buffer_suffix (p : List Byte) : (rxIter p).buffer <:+ p := by
  obtain ⟨-, e⟩ | ⟨-, -, k, -, e⟩ | ⟨-, -, -, e⟩ | ⟨-, -, -, e⟩ | ⟨-, -, -, e⟩ | ⟨-, -, -, e⟩ :=
    rxIter_cases p
  · rw [e]
  · rw [e]; exact List.drop_suffix k p
  · rw [e]; exact List.drop_suffix _ p
  · rw [e]
  · rw [e]; exact List.drop_suffix _ p
  · rw [e]; exact List.drop_suffix _ p

theorem rxLoop_buffer_suffix (fuel : Nat) (p : List Byte) (results : List Result) :
    (rxLoop fuel p results).1 <:+ p := by
  induction fuel generalizing p results with
  | zero => exact List.suffix_rfl
  | succ fuel ih =>
    simp only [rxLoop]
    cases (rxIter p).control with
    | stop => exact rxIter_buffer_suffix p
    | again => exact (ih _ _).trans (rxIter_buffer_suffix p)

/-- The chunk enters at the back first; the loop then only drops from the front. -/
theorem feed_buffer_suffix (p chunk : List Byte) : (feed p chunk).1 <:+ p ++ chunk :=
  rxLoop_buffer_suffix _ _ _

end Sys2Proof.Machine

namespace Sys2Proof

open Sys2Proof.Machine

/-- Settles O36: a chunk within the bounds is taken, and the buffer the feed leaves is a suffix of
`pending ++ chunk`, hence that list less the difference of the two lengths from its front. -/
theorem bufferIsAQueue : Obligations.BufferIsAQueue := by
  unfold Obligations.BufferIsAQueue
  intro chunk s hoperand hchunk
  have hsuffix := feed_buffer_suffix s.pending chunk
  exact ⟨_, _, receive_of_fits hoperand hchunk, Nat.sub_le _ _, List.suffix_iff_eq_drop.1 hsuffix⟩

end Sys2Proof

namespace Sys2Proof

/-! ### The header fields of a frame, byte by byte (R50, R52, R53) -/

/-- A byte inside a slice is a byte of the sequence. -/
theorem byteVal_slice {s : List Byte} {i j k : Nat} (h : k < j - i) :
    byteVal (slice s i j) k = byteVal s (i + k) := by
  simp only [byteVal, slice, List.getD_eq_getElem?_getD, List.getElem?_take_of_lt h,
    List.getElem?_drop]

/-- The field at offset `i` weighs the byte at `i + k` with `2^(8k)`. -/
theorem le48_slice (s : List Byte) (i : Nat) :
    le48 (slice s i (i + 6)) = byteVal s i + 2 ^ 8 * byteVal s (i + 1) + 2 ^ 16 * byteVal s (i + 2)
      + 2 ^ 24 * byteVal s (i + 3) + 2 ^ 32 * byteVal s (i + 4) + 2 ^ 40 * byteVal s (i + 5) := by
  have hbyte {k : Nat} (hk : k < 6) : byteVal (slice s i (i + 6)) k = byteVal s (i + k) :=
    byteVal_slice (by omega)
  rw [le48, hbyte (k := 0) (by decide), hbyte (k := 1) (by decide), hbyte (k := 2) (by decide),
    hbyte (k := 3) (by decide), hbyte (k := 4) (by decide), hbyte (k := 5) (by decide),
    Nat.add_zero]

/-- Byte `k` of a written field holds bits `8k` to `8k + 7` of its number (R7). -/
theorem encLe48_getElem? (v : Nat) {k : Nat} (h : k < 6) :
    (encLe48 v)[k]? = some (BitVec.ofNat 8 (v >>> (8 * k))) := by
  rw [Nat.shiftRight_eq_div_pow]
  match k, h with
  | 0, _ => simp [encLe48]
  | 1, _ | 2, _ | 3, _ | 4, _ | 5, _ => rfl

theorem take_frameBytes (length checksum : Nat) (payload : List Byte) :
    (frameBytes length checksum payload).take magicLen = magic := by
  simp [frameBytes, magic]

/-- A byte of the whole middle part. -/
theorem getElem?_middle (a b c : List Byte) {k : Nat} (h : k < b.length) :
    (a ++ b ++ c)[a.length + k]? = b[k]? := by
  rw [List.append_assoc, List.getElem?_append_right (Nat.le_add_right _ _),
    Nat.add_sub_cancel_left, List.getElem?_append_left h]

theorem frameBytes_length_getElem? (length checksum : Nat) (payload : List Byte) {k : Nat}
    (h : k < 6) : (frameBytes length checksum payload)[lenOff + k]? =
      some (BitVec.ofNat 8 (length >>> (8 * k))) := by
  rw [← encLe48_getElem? length h, frameBytes, List.append_assoc (magic ++ encLe48 length)]
  exact getElem?_middle magic (encLe48 length) (encLe48 checksum ++ payload) h

theorem frameBytes_checksum_getElem? (length checksum : Nat) (payload : List Byte) {k : Nat}
    (h : k < 6) : (frameBytes length checksum payload)[ckOff + k]? =
      some (BitVec.ofNat 8 (checksum >>> (8 * k))) := by
  rw [← encLe48_getElem? checksum h]
  exact getElem?_middle (magic ++ encLe48 length) (encLe48 checksum) payload h

theorem drop_headerLen_frameBytes (length checksum : Nat) (payload : List Byte) :
    (frameBytes length checksum payload).drop headerLen = payload :=
  List.drop_left (l₁ := magic ++ encLe48 length ++ encLe48 checksum)

end Sys2Proof

namespace Sys2Proof.Machine

/-! ### The frame the encoder answers with (R90) -/

theorem encodeFrame_of_length_lt {payload : List Byte} (h : payload.length < 2 ^ 48) :
    encodeFrame payload = .ok (frameOf payload) :=
  if_neg (Nat.not_le.2 h)

/-- An operand within `CHUNK_MAX` is answered, and nothing but the response is written (R92). -/
theorem exec_encEncode_of_fits {payload : List Byte} {s : State}
    (h : operandFits s.params payload = true) :
    exec (.encEncode payload) s =
      .next { s with response := some (.encoded (encodeFrame payload)) } :=
  if_pos h

/-- The four low bytes of the checksum field are the checksum's own. -/
theorem frameOf_checksum_getElem? (payload : List Byte) {k : Nat} (h : k < 4) :
    (frameOf payload)[ckOff + k]? = some ((compute payload).extractLsb' (8 * k) 8) :=
  frameBytes_checksum_getElem? _ _ _ (by omega)

/-- The checksum has 32 bits, so the two high bytes of its field are zero (R53). -/
theorem frameOf_checksum_high_getElem? (payload : List Byte) {k : Nat} (hlow : 4 ≤ k) (hhigh : k < 6) :
    (frameOf payload)[ckOff + k]? = some 0x00 := by
  have hpow : 2 ^ 32 ≤ 2 ^ (8 * k) := Nat.pow_le_pow_right (by decide) (by omega)
  have hzero : (compute payload).toNat >>> (8 * k) = 0 :=
    Nat.shiftRight_eq_zero _ _ (Nat.lt_of_lt_of_le (compute payload).isLt hpow)
  rw [frameOf, frameBytes_checksum_getElem? _ _ _ hhigh, hzero]
  rfl

theorem lengthField_frameOf {payload : List Byte} (h : payload.length < 2 ^ 48) :
    lengthField (frameOf payload) = payload.length := by
  simpa [frameOf] using lengthField_frameBytes (compute payload).toNat payload [] h

/-- A checksum always fits its field, whatever the payload. -/
theorem checksumField_frameOf (payload : List Byte) :
    checksumField (frameOf payload) = (compute payload).toNat := by
  have hfits : (compute payload).toNat < 2 ^ 48 :=
    Nat.lt_trans (compute payload).isLt (by decide)
  simpa [frameOf] using checksumField_frameBytes payload.length payload [] hfits

end Sys2Proof.Machine

namespace Sys2Proof

open Sys2Proof.Machine

/-- Settles O11: the answer is `frameOf payload`, and each part of the wire layout is a lemma about
`frameBytes` at that part's offset. -/
theorem encodedFrameHasTheWireLayout : Obligations.EncodedFrameHasTheWireLayout := by
  unfold Obligations.EncodedFrameHasTheWireLayout
  intro payload s hoperand hlength
  refine ⟨frameOf payload, ?_, length_frameBytes _ _ _, take_frameBytes _ _ _,
    fun k hk => frameBytes_length_getElem? _ _ _ hk,
    fun k hk => frameOf_checksum_getElem? payload hk,
    frameOf_checksum_high_getElem? payload (k := 4) (by decide) (by decide),
    frameOf_checksum_high_getElem? payload (k := 5) (by decide) (by decide),
    drop_headerLen_frameBytes _ _ _⟩
  rw [exec_encEncode_of_fits hoperand, encodeFrame_of_length_lt hlength]

/-- Settles O14: reading weighs the bytes of any slice of six, and the two fields of an encoded frame read
back what was written. -/
theorem headerFieldsAreLittleEndian : Obligations.HeaderFieldsAreLittleEndian := by
  unfold Obligations.HeaderFieldsAreLittleEndian
  refine ⟨fun f _ => ⟨le48_slice f lenOff, le48_slice f ckOff⟩, fun p hlength => ?_⟩
  exact ⟨encodeFrame_of_length_lt hlength, lengthField_frameOf hlength, checksumField_frameOf p,
    frameOf_checksum_high_getElem? p (k := 4) (by decide) (by decide),
    frameOf_checksum_high_getElem? p (k := 5) (by decide) (by decide)⟩

end Sys2Proof

namespace Sys2Proof.Machine

/-! ### `CRC.COMPUTE` and its operand (R74, R77, R79) -/

/-- The empty operand is within every bound, finite or not (R4). -/
@[simp] theorem operandFits_nil (P : Params) : operandFits P [] = true := by
  rw [operandFits, List.length_nil]
  cases P.chunkMax with
  | none => rfl
  | some bound => exact decide_eq_true (Nat.zero_le bound)

/-- With no byte there is no UPDATE: FINAL cancels INIT, since both constants are the same word. -/
@[simp] theorem compute_nil : compute [] = 0x00000000 :=
  calc compute [] = crcInit ^^^ crcXorOut := rfl
    _ = 0x00000000 := BitVec.xor_self

/-- An operand within `CHUNK_MAX` is answered, and nothing but the response is written (R77). -/
theorem exec_crcCompute_of_fits {bytes : List Byte} {s : State}
    (h : operandFits s.params bytes = true) :
    exec (.crcCompute bytes) s = .next { s with response := some (.checksum (compute bytes)) } :=
  if_pos h

end Sys2Proof.Machine

namespace Sys2Proof

open Sys2Proof.Machine

/-- Settles O6: the empty operand is taken whatever the parameters are, and its checksum is zero. -/
theorem checksumOfNothingIsZero : Obligations.ChecksumOfNothingIsZero := by
  unfold Obligations.ChecksumOfNothingIsZero
  intro s
  rw [exec_crcCompute_of_fits (operandFits_nil s.params), compute_nil]

/-- Settles O7: each of the two operations answers with a function of its operand alone, so one response
serves both states. -/
theorem checksumAndEncoderArePure : Obligations.ChecksumAndEncoderArePure := by
  unfold Obligations.ChecksumAndEncoderArePure
  rintro bytes s t hs ht i (rfl | rfl)
  · exact ⟨.checksum (compute bytes), exec_crcCompute_of_fits hs, exec_crcCompute_of_fits ht⟩
  · exact ⟨.encoded (encodeFrame bytes), exec_encEncode_of_fits hs, exec_encEncode_of_fits ht⟩

end Sys2Proof

namespace Sys2Proof.Machine

/-! ### `PayloadTooLarge` (R91) -/

theorem encodeFrame_of_length_ge {payload : List Byte} (h : 2 ^ 48 ≤ payload.length) :
    encodeFrame payload = .err .payloadTooLarge :=
  if_pos h

/-- A shorter payload has a frame, and a frame is not an error. -/
theorem encodeFrame_eq_payloadTooLarge_iff (payload : List Byte) :
    encodeFrame payload = .err .payloadTooLarge ↔ 2 ^ 48 ≤ payload.length := by
  refine ⟨fun herr => Nat.not_lt.1 fun hlt => ?_, encodeFrame_of_length_ge⟩
  rw [encodeFrame_of_length_lt hlt] at herr
  exact Result.noConfusion herr

end Sys2Proof.Machine

namespace Sys2Proof

open Sys2Proof.Machine

/-- Settles O12: the one value is `encodeFrame payload`, the error exactly from 2^48 bytes on, and
`frameOf payload` below. -/
theorem encoderRefusesExactlyTheOversize : Obligations.EncoderRefusesExactlyTheOversize := by
  unfold Obligations.EncoderRefusesExactlyTheOversize
  intro payload s hoperand
  have hiff := encodeFrame_eq_payloadTooLarge_iff payload
  refine ⟨encodeFrame payload, exec_encEncode_of_fits hoperand, hiff, fun hne => ?_⟩
  have hlt : payload.length < 2 ^ 48 := Nat.not_le.1 (mt hiff.2 hne)
  exact ⟨frameOf payload, encodeFrame_of_length_lt hlt⟩

end Sys2Proof

namespace Sys2Proof.Machine

/-! ### The loop, one iteration at a time (R101, R113) -/

/-- An iteration that says continue has dropped at least one byte: a RESYNC at least the one before the
magic it found, a whole frame its header (R113). -/
theorem rxIter_length_lt_of_again {p : List Byte} (h : (rxIter p).control = .again) :
    (rxIter p).buffer.length < p.length := by
  have hheader : 0 < headerLen := by decide
  obtain ⟨-, e⟩ | ⟨hlen, -, k, hk, e⟩ | ⟨-, -, -, e⟩ | ⟨-, -, -, e⟩ | ⟨hlen, -, -, e⟩ | ⟨hlen, -, -, e⟩ :=
    rxIter_cases p
  · rw [e] at h; cases h
  · have hpos : 1 ≤ k := (scanFrom_some hk).1
    rw [e, List.length_drop]
    omega
  · rw [e] at h; cases h
  · rw [e] at h; cases h
  · rw [e, List.length_drop]; omega
  · rw [e, List.length_drop]; omega

/-- The loop ends before its fuel does, so two sufficient amounts of fuel give the same (R113). -/
theorem rxLoop_eq_of_fuel {p : List Byte} {m n : Nat} (results : List Result) (hm : p.length < m)
    (hn : p.length < n) : rxLoop m p results = rxLoop n p results := by
  induction m generalizing n p results with
  | zero => cases hm
  | succ m ih =>
    obtain ⟨n, rfl⟩ : ∃ k, n = k + 1 := ⟨n - 1, by omega⟩
    simp only [rxLoop]
    cases hc : (rxIter p).control with
    | stop => rfl
    | again =>
      have hshorter := rxIter_length_lt_of_again hc
      exact ih _ (by omega) (by omega)

/-- An iteration that says stop is the last one. -/
theorem drain_of_stop {p q : List Byte} {out : Option Result} (h : rxIter p = ⟨q, out, .stop⟩) :
    drain p = (q, out.toList) := by
  simp [drain, rxLoop, h, emit]

/-- After an iteration that says continue the loop runs on what the iteration left, and its results
come after that iteration's. -/
theorem drain_of_again {p q : List Byte} {out : Option Result} (h : rxIter p = ⟨q, out, .again⟩) :
    drain p = ((drain q).1, out.toList ++ (drain q).2) := by
  have hshorter : q.length < p.length := by
    simpa [h] using rxIter_length_lt_of_again (p := p) (by rw [h])
  calc drain p = rxLoop p.length q out.toList := by simp [drain, rxLoop, h, emit]
    _ = rxLoop (q.length + 1) q out.toList :=
      rxLoop_eq_of_fuel _ hshorter (Nat.lt_succ_self _)
    _ = ((drain q).1, out.toList ++ (drain q).2) := rxLoop_results _ _ _

theorem rxIter_of_length_lt {p : List Byte} (h : p.length < headerLen) :
    rxIter p = ⟨p, none, .stop⟩ :=
  if_pos h

theorem drain_of_length_lt {p : List Byte} (h : p.length < headerLen) : drain p = (p, []) :=
  drain_of_stop (rxIter_of_length_lt h)

@[simp] theorem drain_nil : drain [] = ([], []) :=
  drain_of_length_lt (by decide)

/-- A header's worth of bytes that does not begin with the magic is reported first, found again or not
(R106, R107). -/
theorem drain_of_desync {p : List Byte} (hlen : headerLen ≤ p.length) (hsync : ¬ occursAt p 0) :
    ∃ n rest, (drain p).2 = .err (.desyncDiscarded n) :: rest := by
  obtain ⟨hshort, -⟩ | ⟨-, -, k, -, e⟩ | ⟨-, -, -, e⟩ | ⟨-, ho, -⟩ | ⟨-, ho, -⟩ | ⟨-, ho, -⟩ :=
    rxIter_cases p
  · omega
  · exact ⟨k, _, by rw [drain_of_again e]; rfl⟩
  · exact ⟨_, [], by rw [drain_of_stop e]; rfl⟩
  · exact absurd ho hsync
  · exact absurd ho hsync
  · exact absurd ho hsync

/-- A chunk within the bounds is appended and the loop runs; nothing but the buffer and the response is
written (R101). -/
theorem exec_rxFeed_of_fits {chunk : List Byte} {s : State} (hoperand : operandFits s.params chunk = true)
    (hchunk : chunkFits s.params s.pending chunk = true) :
    exec (.rxFeed chunk) s = .next { s with
      pending := (drain (s.pending ++ chunk)).1
      response := some (.received (drain (s.pending ++ chunk)).2) } :=
  receive_of_fits hoperand hchunk

end Sys2Proof.Machine

namespace Sys2Proof

open Sys2Proof.Machine

/-- Settles O30: below 22 bytes the first iteration stops with the buffer as it is; from 22 on, out of
synchronisation, both the RESYNC and the DISCARD report. -/
theorem nothingIsExaminedBelowTwentyTwoBytes : Obligations.NothingIsExaminedBelowTwentyTwoBytes := by
  unfold Obligations.NothingIsExaminedBelowTwentyTwoBytes
  intro chunk s hoperand hchunk
  have hexec := exec_rxFeed_of_fits hoperand hchunk
  refine ⟨fun hshort => ?_, fun hlong hsync => ?_⟩
  · rw [hexec, drain_of_length_lt hshort]
  · obtain ⟨n, rest, hresults⟩ := drain_of_desync hlong hsync
    exact ⟨_, n, rest, hexec, by rw [hresults]⟩

end Sys2Proof

namespace Sys2Proof.Machine

/-! ### A frame at the front of the buffer (R111, R112) -/

/-- What the receiver says of a whole frame with this payload and checksum field (R112). -/
def verdict (checksum : Nat) (payload : List Byte) : Result :=
  if (compute payload).toNat = checksum then .ok payload else .err .checksumMismatch

theorem verdict_self (payload : List Byte) : verdict (compute payload).toNat payload = .ok payload :=
  if_pos rfl

theorem verdict_of_ne {checksum : Nat} {payload : List Byte} (h : (compute payload).toNat ≠ checksum) :
    verdict checksum payload = .err .checksumMismatch :=
  if_neg h

/-- A whole frame is consumed whatever its checksum field says; the bytes after it stay (R111). -/
theorem rxIter_frameBytes_append {checksum : Nat} {payload : List Byte} (rest : List Byte)
    (hlength : payload.length < 2 ^ 48) (hchecksum : checksum < 2 ^ 48) :
    rxIter (frameBytes payload.length checksum payload ++ rest)
      = ⟨rest, some (verdict checksum payload), .again⟩ := by
  have hsync := occursAt_frameBytes payload.length checksum payload rest
  have hL := lengthField_frameBytes checksum payload rest hlength
  have hC := checksumField_frameBytes payload.length payload rest hchecksum
  have hpayload := payload_frameBytes payload.length checksum payload rest
  have hrest := drop_frameBytes payload.length checksum payload rest
  have hwhole : headerLen + payload.length
      ≤ (frameBytes payload.length checksum payload ++ rest).length := by
    rw [List.length_append, length_frameBytes]
    exact Nat.le_add_right _ _
  obtain ⟨hlt, -⟩ | ⟨-, ho, -⟩ | ⟨-, ho, -⟩ | ⟨-, -, hlt, -⟩ | ⟨-, -, heq, e⟩ | ⟨-, -, hne, e⟩ :=
    rxIter_cases (frameBytes payload.length checksum payload ++ rest)
  · omega
  · exact absurd hsync ho
  · exact absurd hsync ho
  · omega
  · rw [hL, hpayload, hC] at heq
    rw [e, hL, hpayload, hrest, ← heq, verdict_self]
  · rw [hL, hpayload, hC] at hne
    rw [e, hL, hrest, verdict_of_ne hne]

theorem drain_frameBytes_append {checksum : Nat} {payload : List Byte} (rest : List Byte)
    (hlength : payload.length < 2 ^ 48) (hchecksum : checksum < 2 ^ 48) :
    drain (frameBytes payload.length checksum payload ++ rest)
      = ((drain rest).1, verdict checksum payload :: (drain rest).2) :=
  drain_of_again (rxIter_frameBytes_append rest hlength hchecksum)

theorem compute_toNat_lt (payload : List Byte) : (compute payload).toNat < 2 ^ 48 :=
  Nat.lt_trans (compute payload).isLt (by decide)

theorem drain_frameOf_append {payload : List Byte} (rest : List Byte)
    (hlength : payload.length < 2 ^ 48) :
    drain (frameOf payload ++ rest) = ((drain rest).1, .ok payload :: (drain rest).2) := by
  rw [frameOf, drain_frameBytes_append rest hlength (compute_toNat_lt payload), verdict_self]

/-- Encoded frames in one buffer are all delivered, in order, and nothing is left (R118). -/
theorem drain_frames {payloads : List (List Byte)} (hlength : ∀ p ∈ payloads, p.length < 2 ^ 48) :
    drain (payloads.map frameOf).flatten = ([], payloads.map .ok) := by
  induction payloads with
  | nil => exact drain_nil
  | cons payload payloads ih =>
    obtain ⟨hfirst, hlater⟩ := List.forall_mem_cons.1 hlength
    rw [List.map_cons, List.flatten_cons, drain_frameOf_append _ hfirst, ih hlater, List.map_cons]

end Sys2Proof.Machine

namespace Sys2Proof

open Sys2Proof.Machine

/-- Settles O44: the three frames are the buffer after the append, and the loop delivers them all. -/
theorem oneFeedDrainsThreeFrames : Obligations.OneFeedDrainsThreeFrames := by
  unfold Obligations.OneFeedDrainsThreeFrames
  intro a b c s ha hb hc hempty hoperand hchunk
  have hdrain : drain (frameOf a ++ frameOf b ++ frameOf c) = ([], [.ok a, .ok b, .ok c]) := by
    simpa using drain_frames (payloads := [a, b, c]) (by simpa using ⟨ha, hb, hc⟩)
  rw [exec_rxFeed_of_fits hoperand hchunk, hempty, List.nil_append, hdrain, ← hempty]

end Sys2Proof

namespace Sys2Proof.Machine

/-! ### Error detection (R81): the rounds and UPDATE keep a difference -/

/-- The bit shifted out of a round is the top bit of the result, since the polynomial's top bit is set. -/
theorem crcRound_getLsbD_top (c : U32) : (crcRound c).getLsbD 31 = c.getLsbD 0 := by
  have hshifted : (c >>> 1).getLsbD 31 = false := by simp
  cases h : c.getLsbD 0 with
  | false => rw [crcRound, h]; exact hshifted
  | true =>
    rw [crcRound, h, if_pos rfl, BitVec.getLsbD_xor, hshifted]
    decide

theorem crcRound_eq_zero {c : U32} (h : crcRound c = 0) : c = 0 := by
  have hlow : c.getLsbD 0 = false := by rw [← crcRound_getLsbD_top, h]; rfl
  rw [crcRound, hlow, if_neg Bool.false_ne_true] at h
  apply BitVec.eq_of_getLsbD_eq
  intro i _
  cases i with
  | zero => rw [hlow]; rfl
  | succ i => simpa [Nat.add_comm] using congrArg (BitVec.getLsbD · i) h

theorem crcRounds_eq_zero {n : Nat} {c : U32} (h : crcRounds n c = 0) : c = 0 := by
  induction n generalizing c with
  | zero => exact h
  | succ n ih => exact crcRound_eq_zero (ih h)

/-- The rounds are linear, so they keep a difference. -/
theorem crcRounds_injective {n : Nat} {x y : U32} (h : crcRounds n x = crcRounds n y) : x = y := by
  have hzero : crcRounds n (x ^^^ y) = 0 := by rw [crcRounds_xor, h, BitVec.xor_self]; rfl
  exact BitVec.xor_eq_zero_iff.1 (crcRounds_eq_zero hzero)

/-- The printed table is the one its rule builds (R14, R15): its sixteen rows of sixteen words are
compared. -/
theorem tableRead_eq_tableEntry (n : Byte) : tableRead n = tableEntry n := by
  have hrows : ∀ row column : Fin 16,
      tableRead (BitVec.ofNat 8 (16 * row + column)) = tableEntry (BitVec.ofNat 8 (16 * row + column)) := by
    decide
  have hn := n.isLt
  have hindex : BitVec.ofNat 8 (16 * (n.toNat / 16) + n.toNat % 16) = n := by
    rw [Nat.div_add_mod, BitVec.ofNat_toNat, BitVec.setWidth_eq]
  rw [← hindex]
  exact hrows ⟨n.toNat / 16, by omega⟩ ⟨n.toNat % 16, by omega⟩

/-- While the low bits are clear, rounds only shift. -/
theorem crcRounds_of_low_clear {n : Nat} {c : U32} (h : ∀ i < n, c.getLsbD i = false) :
    crcRounds n c = c >>> n := by
  induction n generalizing c with
  | zero => exact (BitVec.ushiftRight_zero c).symm
  | succ n ih =>
    have hround : crcRound c = c >>> 1 := by
      rw [crcRound, h 0 (Nat.succ_pos n), if_neg Bool.false_ne_true]
    have hclear : ∀ i < n, (c >>> 1).getLsbD i = false := fun i hi => by
      rw [BitVec.getLsbD_ushiftRight]
      exact h _ (by omega)
    rw [crcRounds, hround, ih hclear, ← BitVec.shiftRight_add, Nat.add_comm]

/-- UPDATE is eight clocks of the bit-serial form (R76). The word splits into its low byte, whose rounds
are the table's entry, and the rest, whose rounds are the shift. -/
theorem crcUpdate_eq_crcRounds (crc : U32) (b : Byte) :
    crcUpdate crc b = crcRounds 8 (crc ^^^ b.setWidth 32) := by
  set index : Byte := (crc ^^^ b.setWidth 32).setWidth 8 with hindex
  set high : U32 := (crc ^^^ b.setWidth 32) ^^^ index.setWidth 32 with hhigh
  have hclear : ∀ i < 8, high.getLsbD i = false := fun i hi => by
    simp [hhigh, hindex, hi, show i < 32 by omega]
  have hshift : high >>> 8 = crc >>> 8 := by
    apply BitVec.eq_of_getLsbD_eq
    intro i _
    simp [hhigh]
  calc crcUpdate crc b = crcRounds 8 high ^^^ crcRounds 8 (index.setWidth 32) := by
        rw [crcRounds_of_low_clear hclear, hshift, crcUpdate, tableRead_eq_tableEntry, tableEntry]
    _ = crcRounds 8 (high ^^^ index.setWidth 32) := (crcRounds_xor 8 _ _).symm
    _ = crcRounds 8 (crc ^^^ b.setWidth 32) := by
        rw [hhigh, BitVec.xor_assoc, BitVec.xor_self, BitVec.xor_zero]

theorem crcUpdate_left_injective {b : Byte} {x y : U32} (h : crcUpdate x b = crcUpdate y b) : x = y := by
  rw [crcUpdate_eq_crcRounds, crcUpdate_eq_crcRounds] at h
  exact (BitVec.xor_left_inj _).1 (crcRounds_injective h)

theorem crcUpdate_right_injective {x : U32} {b c : Byte} (h : crcUpdate x b = crcUpdate x c) : b = c := by
  rw [crcUpdate_eq_crcRounds, crcUpdate_eq_crcRounds] at h
  have hwide := congrArg (BitVec.setWidth 8) ((BitVec.xor_right_inj _).1 (crcRounds_injective h))
  simpa using hwide

theorem foldl_crcUpdate_injective {bytes : List Byte} {x y : U32}
    (h : bytes.foldl crcUpdate x = bytes.foldl crcUpdate y) : x = y := by
  induction bytes generalizing x y with
  | nil => exact h
  | cons b bytes ih => exact crcUpdate_left_injective (ih h)

/-- The bytes before and after are the same, so the checksum tells the two bytes apart (R81). -/
theorem compute_append_cons_injective {before after : List Byte} {b c : Byte}
    (h : compute (before ++ b :: after) = compute (before ++ c :: after)) : b = c := by
  have hfold := crcFinal_injective h
  rw [List.foldl_append, List.foldl_append] at hfold
  exact crcUpdate_right_injective (foldl_crcUpdate_injective hfold)

/-- One changed byte changes the checksum (R81). -/
theorem compute_set_ne {bytes : List Byte} {i : Nat} {b : Byte} (hi : i < bytes.length)
    (hb : b ≠ bytes[i]) : compute (bytes.set i b) ≠ compute bytes := by
  intro h
  have hsplit : bytes = bytes.take i ++ bytes[i] :: bytes.drop (i + 1) := by simp
  rw [List.set_eq_take_append_cons_drop, if_pos hi] at h
  exact hb (compute_append_cons_injective (h.trans (congrArg compute hsplit)))

/-- Flipping a bit of a byte changes it. -/
theorem xor_bit_ne (b : Byte) {bit : Nat} (h : bit < 8) : b ^^^ (1#8 <<< bit) ≠ b := by
  intro heq
  have hbit := congrArg (BitVec.getLsbD · bit) heq
  simp [h] at hbit

end Sys2Proof.Machine

namespace Sys2Proof

open Sys2Proof.Machine

/-- The header of a frame does not depend on its payload's bytes, so putting others there gives the frame
with the old fields and the new payload. -/
theorem take_headerLen_frameBytes_append (length checksum : Nat) (payload payload' : List Byte) :
    (frameBytes length checksum payload).take headerLen ++ payload'
      = frameBytes length checksum payload' :=
  congrArg (· ++ payload') (List.take_left (l₁ := magic ++ encLe48 length ++ encLe48 checksum))

/-- Settles O45: the first frame's checksum field no longer matches its changed payload, the frame is
consumed, and the later frames are delivered. -/
theorem flippedPayloadBitIsDetected : Obligations.FlippedPayloadBitIsDetected := by
  unfold Obligations.FlippedPayloadBitIsDetected
  intro payload i bit later chunk s hlength hi hbit hlater hchunkEq hempty hoperand hchunk
  set flipped := payload.set i (payload[i] ^^^ (1#8 <<< bit)) with hflipped
  have hsame : flipped.length = payload.length := List.length_set
  have hne : compute flipped ≠ compute payload := compute_set_ne hi (xor_bit_ne _ hbit)
  have hverdict : verdict (compute payload).toNat flipped = .err .checksumMismatch :=
    verdict_of_ne (mt BitVec.eq_of_toNat_eq hne)
  have hframe : chunk = frameBytes flipped.length (compute payload).toNat flipped
      ++ (later.map frameOf).flatten := by
    rw [hchunkEq, hsame, frameOf, take_headerLen_frameBytes_append]
  have hdrain : drain chunk = ([], .err .checksumMismatch :: later.map .ok) := by
    rw [hframe, drain_frameBytes_append _ (hsame ▸ hlength) (compute_toNat_lt payload), hverdict,
      drain_frames hlater]
  rw [exec_rxFeed_of_fits hoperand hchunk, hempty, List.nil_append, hdrain, ← hempty]

end Sys2Proof

namespace Sys2Proof.Machine

/-! ### A frame that has not come whole (R103, R109, R117) -/

/-- Fewer bytes than the frame at the front of the stream has are kept: there is no whole header, or the
header is whole and announces more than has come. -/
theorem rxIter_of_partial_frame {payload p rest later : List Byte}
    (hlength : payload.length < 2 ^ 48) (hstream : p ++ rest = frameOf payload ++ later)
    (hpartial : p.length < headerLen + payload.length) : rxIter p = ⟨p, none, .stop⟩ := by
  by_cases hheader : p.length < headerLen
  · exact rxIter_of_length_lt hheader
  have hheader' : 22 ≤ p.length := Nat.le_of_not_lt hheader
  have hsync : occursAt p 0 := by
    have h := occursAt_frameBytes payload.length (compute payload).toNat payload later
    rw [← frameOf, ← hstream] at h
    rwa [occursAt, slice_append_left rest 0 (Nat.le_trans (by decide) hheader')] at h
  have hL : lengthField p = payload.length := by
    have h := lengthField_frameBytes (compute payload).toNat payload later hlength
    rw [← frameOf, ← hstream] at h
    rwa [lengthField, slice_append_left rest lenOff (Nat.le_trans (by decide) hheader')] at h
  obtain ⟨-, e⟩ | ⟨-, ho, -⟩ | ⟨-, ho, -⟩ | ⟨-, -, -, e⟩ | ⟨hwhole, -⟩ | ⟨hwhole, -⟩ := rxIter_cases p
  · exact e
  · exact absurd hsync ho
  · exact absurd hsync ho
  · exact e
  · omega
  · omega

/-- Any front part of a stream of frames: the loop delivers the frames that have come whole, and what it
keeps, which it would keep again, is the start of the frames still to come. -/
theorem drain_front_of_frames {payloads : List (List Byte)} {p rest : List Byte}
    (hlength : ∀ payload ∈ payloads, payload.length < 2 ^ 48)
    (hstream : p ++ rest = (payloads.map frameOf).flatten) :
    ∃ delivered remaining q, payloads = delivered ++ remaining ∧ drain p = (q, delivered.map .ok) ∧
      drain q = (q, []) ∧ q ++ rest = (remaining.map frameOf).flatten := by
  induction payloads generalizing p with
  | nil =>
    obtain ⟨rfl, rfl⟩ : p = [] ∧ rest = [] := List.append_eq_nil_iff.1 hstream
    exact ⟨[], [], [], rfl, drain_nil, drain_nil, rfl⟩
  | cons payload payloads ih =>
    obtain ⟨hfirst, hlater⟩ := List.forall_mem_cons.1 hlength
    rw [List.map_cons, List.flatten_cons] at hstream
    by_cases hpartial : p.length < headerLen + payload.length
    · have hkept : drain p = (p, []) := drain_of_stop (rxIter_of_partial_frame hfirst hstream hpartial)
      exact ⟨[], payload :: payloads, p, rfl, hkept, hkept, hstream⟩
    · have hwhole : (frameOf payload).length ≤ p.length := by
        rw [frameOf, length_frameBytes]
        exact Nat.le_of_not_lt hpartial
      obtain ⟨p', rfl⟩ : frameOf payload <+: p :=
        List.prefix_of_prefix_length_le (List.prefix_append _ _) ⟨rest, hstream⟩ hwhole
      rw [List.append_assoc] at hstream
      obtain ⟨delivered, remaining, q, hsplit, hdrain, hkept, hrest⟩ :=
        ih hlater (List.append_cancel_left hstream)
      refine ⟨payload :: delivered, remaining, q, by rw [hsplit, List.cons_append], ?_, hkept, hrest⟩
      rw [drain_frameOf_append p' hfirst, hdrain, List.map_cons]

/-! ### Chunks fed one after the other -/

/-- The buffer after all the chunks, and the results of each `RX.FEED`. -/
def feedEach : List Byte → List (List Byte) → List Byte × List (List Result)
  | p, [] => (p, [])
  | p, chunk :: chunks =>
    ((feedEach (feed p chunk).1 chunks).1, (feed p chunk).2 :: (feedEach (feed p chunk).1 chunks).2)

/-- However a stream of frames is cut, the chunks give every payload in order and leave nothing (R117). -/
theorem feedEach_frames {payloads chunks : List (List Byte)} {p : List Byte}
    (hlength : ∀ payload ∈ payloads, payload.length < 2 ^ 48) (hkept : drain p = (p, []))
    (hstream : p ++ chunks.flatten = (payloads.map frameOf).flatten) :
    (feedEach p chunks).1 = [] ∧ (feedEach p chunks).2.flatten = payloads.map .ok := by
  induction chunks generalizing p payloads with
  | nil =>
    rw [List.flatten_nil, List.append_nil] at hstream
    rw [hstream, drain_frames hlength, ← hstream] at hkept
    obtain ⟨hp, hresults⟩ := Prod.mk.inj hkept
    exact ⟨hp.symm, hresults.symm⟩
  | cons chunk chunks ih =>
    rw [List.flatten_cons, ← List.append_assoc] at hstream
    obtain ⟨delivered, remaining, q, rfl, hdrain, hkeptq, hrest⟩ := drain_front_of_frames hlength hstream
    have hfeed : feed p chunk = (q, delivered.map .ok) := hdrain
    obtain ⟨hempty, hresults⟩ :=
      ih (fun payload hmem => hlength payload (List.mem_append_right _ hmem)) hkeptq hrest
    simp only [feedEach, hfeed]
    exact ⟨hempty, by rw [List.flatten_cons, hresults, List.map_append]⟩

/-! ### The run that feeds chunks (R38, R165) -/

theorem receivedOf_map_received (results : List (List Result)) :
    receivedOf (results.map .received) = results.flatten := by
  induction results with
  | nil => rfl
  | cons r results ih => rw [List.map_cons, receivedOf, ih, List.flatten_cons]

/-- A step runs the operation at the front of the port, unless it would be the second one on the buffer. -/
theorem step_of_issue {s : State} {format : Format} {bytes : List Byte} {inProgress : List Instr}
    {rest : List PortEvent} {i : Instr} (hport : s.port = .issue format bytes inProgress :: rest)
    (hdecode : decode format bytes = .ok i) (hoverlap : overlaps i inProgress = false) :
    step s = exec i (s.setPort rest) := by
  rw [step, takeRequest, hport]
  simp only [hdecode]
  exact issue_eq_exec _ hoverlap

/-- One step of a run, then the rest of it. -/
theorem run_succ_of_next {n : Nat} {s u t : State} {responses : List Response} (hstep : step s = .next u)
    (hrun : run n u = some (t, responses)) :
    run (n + 1) s = some (t, u.response.toList ++ responses) := by
  simp only [run, hstep, hrun]

theorem within_of_le {bound : Option Nat} {m n : Nat} (hle : m ≤ n) (h : within bound n = true) :
    within bound m = true := by
  cases bound with
  | none => rfl
  | some b => exact decide_eq_true (Nat.le_trans hle (of_decide_eq_true h))

theorem length_feed_le (p chunk : List Byte) : (feed p chunk).1.length ≤ p.length + chunk.length := by
  rw [← List.length_append]
  exact (feed_buffer_suffix p chunk).length_le

/-- The step that takes the first of the chunks at the port, if it fits. -/
theorem step_feedRequests_cons {chunk : List Byte} {chunks : List (List Byte)} {s : State}
    (hport : s.port = feedRequests (chunk :: chunks)) (hoperand : operandFits s.params chunk = true)
    (hchunk : chunkFits s.params s.pending chunk = true) :
    step s = .next { s with
      pending := (feed s.pending chunk).1
      response := some (.received (feed s.pending chunk).2)
      port := feedRequests chunks } :=
  (step_of_issue hport rfl rfl).trans
    (exec_rxFeed_of_fits (s := s.setPort (feedRequests chunks)) hoperand hchunk)

/-- With room for all the chunks every `RX.FEED` of them completes, and the run answers with the results
of each; nothing but the buffer and the two ports is written. -/
theorem run_feedRequests {chunks : List (List Byte)} {s : State} (hport : s.port = feedRequests chunks)
    (hoperand : ∀ chunk ∈ chunks, operandFits s.params chunk = true)
    (hroom : chunkFits s.params s.pending chunks.flatten = true) :
    ∃ t, run chunks.length s = some (t, (feedEach s.pending chunks).2.map .received) ∧
      t.pending = (feedEach s.pending chunks).1 ∧ t.port = [] ∧ t.params = s.params := by
  induction chunks generalizing s with
  | nil => exact ⟨s, rfl, rfl, hport, rfl⟩
  | cons chunk chunks ih =>
    obtain ⟨hfirst, hlater⟩ := List.forall_mem_cons.1 hoperand
    rw [chunkFits, List.flatten_cons, List.length_append] at hroom
    have hchunk : chunkFits s.params s.pending chunk = true := within_of_le (by omega) hroom
    have hroomLater : chunkFits s.params (feed s.pending chunk).1 chunks.flatten = true := by
      have hkept := length_feed_le s.pending chunk
      exact within_of_le (by omega) hroom
    have hstep := step_feedRequests_cons hport hfirst hchunk
    obtain ⟨t, hrun, hrest⟩ := ih (s := { s with
      pending := (feed s.pending chunk).1
      response := some (.received (feed s.pending chunk).2)
      port := feedRequests chunks }) rfl hlater hroomLater
    exact ⟨t, run_succ_of_next hstep hrun, hrest⟩

end Sys2Proof.Machine

namespace Sys2Proof

open Sys2Proof.Machine

/-- Settles O43: the run is the chunks fed one after the other, and an empty buffer is the front of any
stream of frames. -/
theorem payloadsAreChunkIndependent : Obligations.PayloadsAreChunkIndependent := by
  unfold Obligations.PayloadsAreChunkIndependent
  intro payloads chunks s hlength hstream hempty hport hoperand hroom
  obtain ⟨t, hrun, hpending, hportEmpty, hparams⟩ := run_feedRequests hport hoperand (hempty ▸ hroom)
  rw [hempty] at hrun hpending
  obtain ⟨hnothing, hresults⟩ := feedEach_frames (chunks := chunks) hlength drain_nil hstream
  exact ⟨t, _, hrun, (receivedOf_map_received _).trans hresults, hpending.trans hnothing, hportEmpty,
    hparams⟩

end Sys2Proof

namespace Sys2Proof.Machine

/-! ### What every run of the loop keeps (R113)

The loop is a chain of iterations that say continue and a last one that says stop: a property of the
buffer it starts from, the buffer it leaves and its results is proved once for the last iteration and once
for an iteration before the others. -/

theorem drain_induction {motive : List Byte → List Byte × List Result → Prop}
    (stop : ∀ {p q out}, rxIter p = ⟨q, out, .stop⟩ → motive p (q, out.toList))
    (again : ∀ {p q out}, rxIter p = ⟨q, out, .again⟩ → motive q (drain q) →
      motive p ((drain q).1, out.toList ++ (drain q).2))
    (p : List Byte) : motive p (drain p) := by
  induction hn : p.length using Nat.strong_induction_on generalizing p with
  | _ n ih =>
    subst hn
    rcases hit : rxIter p with ⟨q, out, control⟩
    cases control with
    | stop =>
      rw [drain_of_stop hit]
      exact stop hit
    | again =>
      have hshorter : q.length < p.length := by
        simpa [hit] using rxIter_length_lt_of_again (p := p) (by rw [hit])
      rw [drain_of_again hit]
      exact again hit (ih _ hshorter q rfl)

/-! ### The receiver's results (R131) -/

/-- The two errors of an iteration are `DesyncDiscarded` and `ChecksumMismatch` (R102). -/
theorem rxIter_out_ne_payloadTooLarge (p : List Byte) :
    (rxIter p).out ≠ some (.err .payloadTooLarge) := by
  obtain ⟨-, e⟩ | ⟨-, -, k, -, e⟩ | ⟨-, -, -, e⟩ | ⟨-, -, -, e⟩ | ⟨-, -, -, e⟩ | ⟨-, -, -, e⟩ :=
    rxIter_cases p
  all_goals rw [e]; simp

theorem payloadTooLarge_notMem_drain (p : List Byte) : .err .payloadTooLarge ∉ (drain p).2 := by
  have hiter {p q out control} (hit : rxIter p = ⟨q, out, control⟩) :
      .err .payloadTooLarge ∉ out.toList := fun hmem =>
    rxIter_out_ne_payloadTooLarge p (by rw [hit]; exact Option.mem_toList.1 hmem)
  induction p using drain_induction with
  | stop hit => exact hiter hit
  | again hit ih => exact fun hmem => (List.mem_append.1 hmem).elim (hiter hit) ih

end Sys2Proof.Machine

namespace Sys2Proof

open Sys2Proof.Machine

/-- The six bytes of a length field hold at most 2^48 - 1 (R52). -/
theorem lengthField_lt (p : List Byte) : lengthField p < 2 ^ 48 :=
  le48_lt _

/-- Settles O13: the encoder answers its error and writes nothing but the response; the results of a feed
are those of its iterations, none of which is that error. -/
theorem payloadTooLargeIsTheEncodersAlone : Obligations.PayloadTooLargeIsTheEncodersAlone := by
  unfold Obligations.PayloadTooLargeIsTheEncodersAlone
  refine ⟨fun payload s hoperand hlength => ?_, fun p chunk => ?_, lengthField_lt⟩
  · rw [exec_encEncode_of_fits hoperand, encodeFrame_of_length_ge hlength]
  · exact payloadTooLarge_notMem_drain (p ++ chunk)

end Sys2Proof

namespace Sys2Proof.Machine

/-! ### The buffer the loop leaves (R25, R107, R135) -/

/-- DISCARD keeps the last nine bytes, of at least 22 (R107). -/
theorem length_drop_tailKeep {p : List Byte} (h : headerLen ≤ p.length) :
    (p.drop (p.length - tailKeep)).length = 9 := by
  have hkeep : tailKeep ≤ p.length := Nat.le_trans (by decide) h
  rw [List.length_drop, Nat.sub_sub_self hkeep]

/-- An iteration says stop for want of a header or of a payload, or after a DISCARD (R102). -/
theorem quiescent_of_rxIter_stop {p q : List Byte} {out : Option Result}
    (h : rxIter p = ⟨q, out, .stop⟩) : Quiescent q := by
  obtain ⟨hshort, e⟩ | ⟨-, -, k, -, e⟩ | ⟨hlen, -, -, e⟩ | ⟨hlen, hsync, hwait, e⟩ | ⟨-, -, -, e⟩ |
    ⟨-, -, -, e⟩ := rxIter_cases p <;> rw [e] at h <;> cases h
  · exact .inl hshort
  · refine .inl ?_
    rw [WaitingForHeader, length_drop_tailKeep hlen]
    decide
  · exact .inr ⟨hlen, hsync, hwait⟩

theorem quiescent_drain (p : List Byte) : Quiescent (drain p).1 := by
  induction p using drain_induction with
  | stop hit => exact quiescent_of_rxIter_stop hit
  | again _ ih => exact ih

/-- `FindMagic` answers only where the magic occurs (R105). -/
theorem findMagic_eq_none {p : List Byte} (h : ∀ k, ¬ occursAt p k) : findMagic p = none := by
  cases hk : findMagic p with
  | none => rfl
  | some k => exact absurd ((occursAt_drop p 1 _).1 (scanFrom_some hk).2.1) (h _)

/-- Without a magic the first iteration is a DISCARD (R107). -/
theorem length_drain_of_noMagic {p : List Byte} (hlen : headerLen ≤ p.length)
    (hmagic : ∀ k, ¬ occursAt p k) : (drain p).1.length = 9 := by
  have hnone := findMagic_eq_none hmagic
  obtain ⟨hshort, -⟩ | ⟨-, -, k, hk, -⟩ | ⟨-, -, -, e⟩ | ⟨-, ho, -⟩ | ⟨-, ho, -⟩ | ⟨-, ho, -⟩ :=
    rxIter_cases p
  · omega
  · rw [hnone] at hk; cases hk
  · rw [drain_of_stop e]
    exact length_drop_tailKeep hlen
  · exact absurd ho (hmagic 0)
  · exact absurd ho (hmagic 0)
  · exact absurd ho (hmagic 0)

end Sys2Proof.Machine

namespace Sys2Proof

open Sys2Proof.Machine

/-- Settles O39: the feed leaves what the loop leaves of `pending ++ chunk`, and the loop's last iteration
leaves a quiescent buffer whatever it started from. -/
theorem everyFeedLeavesAQuiescentBuffer : Obligations.EveryFeedLeavesAQuiescentBuffer := by
  unfold Obligations.EveryFeedLeavesAQuiescentBuffer
  intro chunk s hoperand hchunk
  exact ⟨_, exec_rxFeed_of_fits hoperand hchunk, quiescent_drain _, length_drain_of_noMagic⟩

end Sys2Proof


namespace Sys2Proof.Machine

/-! ### A frame whose magic is at the front: awaited or taken (R109, R111, R155)

R155 has two sides: below `22 + L` bytes the buffer is a `WaitingForPayload`, and from there on its first
iteration takes the frame. -/

/-- An announced payload that has not come whole stops the loop (R109). -/
theorem rxIter_of_waitingForPayload {p : List Byte} (h : WaitingForPayload p) :
    rxIter p = ⟨p, none, .stop⟩ := by
  obtain ⟨-, hsync, hwait⟩ := h
  obtain ⟨-, e⟩ | ⟨-, ho, -⟩ | ⟨-, ho, -⟩ | ⟨-, -, -, e⟩ | ⟨hwhole, -⟩ | ⟨hwhole, -⟩ := rxIter_cases p
  · exact e
  · exact absurd hsync ho
  · exact absurd hsync ho
  · exact e
  · omega
  · omega

theorem drain_of_waitingForPayload {p : List Byte} (h : WaitingForPayload p) : drain p = (p, []) :=
  drain_of_stop (rxIter_of_waitingForPayload h)

/-- A whole frame at the front is consumed whatever its verdict (R111, R112). -/
theorem rxIter_of_wholeFrame {p : List Byte} (hsync : occursAt p 0)
    (hwhole : headerLen + lengthField p ≤ p.length) :
    rxIter p = ⟨p.drop (headerLen + lengthField p),
      some (verdict (checksumField p) (slice p headerLen (headerLen + lengthField p))), .again⟩ := by
  obtain ⟨hlt, -⟩ | ⟨-, ho, -⟩ | ⟨-, ho, -⟩ | ⟨-, -, hlt, -⟩ | ⟨-, -, heq, e⟩ | ⟨-, -, hne, e⟩ :=
    rxIter_cases p
  · omega
  · exact absurd hsync ho
  · exact absurd hsync ho
  · omega
  · rw [e, ← heq, verdict_self]
  · rw [e, verdict_of_ne hne]

theorem drain_of_wholeFrame {p : List Byte} (hsync : occursAt p 0)
    (hwhole : headerLen + lengthField p ≤ p.length) :
    drain p = ((drain (p.drop (headerLen + lengthField p))).1,
      verdict (checksumField p) (slice p headerLen (headerLen + lengthField p))
        :: (drain (p.drop (headerLen + lengthField p))).2) :=
  drain_of_again (rxIter_of_wholeFrame hsync hwhole)

theorem verdict_eq_ok_or_checksumMismatch (checksum : Nat) (payload : List Byte) :
    verdict checksum payload = .ok payload ∨ verdict checksum payload = .err .checksumMismatch :=
  ite_eq_or_eq _ _ _

end Sys2Proof.Machine

namespace Sys2Proof

open Sys2Proof.Machine

/-- Settles O31: below `22 + L` bytes the buffer waits for its payload and the loop stops at once; from
there on the first iteration takes the frame, and its result is the frame's verdict. -/
theorem frameIsTakenExactlyWhenWhole : Obligations.FrameIsTakenExactlyWhenWhole := by
  unfold Obligations.FrameIsTakenExactlyWhenWhole
  intro chunk s hoperand hchunk hheader hsync
  have hexec := exec_rxFeed_of_fits hoperand hchunk
  refine ⟨fun hshort => ?_, fun hwhole => ?_⟩
  · rw [hexec, drain_of_waitingForPayload ⟨hheader, hsync, hshort⟩]
  · exact ⟨_, _, _, hexec, by rw [drain_of_wholeFrame hsync hwhole],
      verdict_eq_ok_or_checksumMismatch _ _⟩

end Sys2Proof

namespace Sys2Proof.Machine

/-! ### Waiting for an announced payload, chunk after chunk (R158) -/

/-- Once the header is whole, the bytes behind it do not change its length field (R31). -/
theorem lengthField_append {p : List Byte} (rest : List Byte) (h : headerLen ≤ p.length) :
    lengthField (p ++ rest) = lengthField p := by
  rw [lengthField, slice_append_left rest lenOff (Nat.le_trans (by decide) h), lengthField]

/-- A chunk that does not complete the announced payload leaves the buffer waiting for it (R109). -/
theorem waitingForPayload_append {p chunk : List Byte} (h : WaitingForPayload p)
    (hshort : (p ++ chunk).length < headerLen + lengthField p) : WaitingForPayload (p ++ chunk) := by
  obtain ⟨hheader, hsync, -⟩ := h
  have hlonger : p.length ≤ (p ++ chunk).length := (List.prefix_append p chunk).length_le
  refine ⟨Nat.le_trans hheader hlonger, ?_, ?_⟩
  · rwa [occursAt, slice_append_left chunk 0 (Nat.le_trans (by decide) hheader)]
  · rwa [lengthField_append chunk hheader]

/-- While the announced payload has not come whole, every chunk gives no result and every byte is kept. -/
theorem feedEach_of_waitingForPayload {chunks : List (List Byte)} {p : List Byte}
    (hwait : WaitingForPayload p) (hshort : (p ++ chunks.flatten).length < headerLen + lengthField p) :
    feedEach p chunks = (p ++ chunks.flatten, chunks.map fun _ => []) := by
  induction chunks generalizing p with
  | nil => rw [List.flatten_nil, List.append_nil]; rfl
  | cons chunk chunks ih =>
    rw [List.flatten_cons, ← List.append_assoc] at hshort ⊢
    have hfront : (p ++ chunk).length ≤ (p ++ chunk ++ chunks.flatten).length :=
      (List.prefix_append _ _).length_le
    have hwaitLater := waitingForPayload_append hwait (Nat.lt_of_le_of_lt hfront hshort)
    have hfeed : feed p chunk = (p ++ chunk, []) := drain_of_waitingForPayload hwaitLater
    rw [← lengthField_append chunk hwait.1] at hshort
    simp only [feedEach, hfeed, ih hwaitLater hshort, List.map_cons]

end Sys2Proof.Machine

namespace Sys2Proof

open Sys2Proof.Machine

/-- Settles O49: the run is the chunks fed one after the other, and each leaves the buffer waiting for the
same payload. -/
theorem announcedPayloadIsAwaitedWithoutLimit : Obligations.AnnouncedPayloadIsAwaitedWithoutLimit := by
  unfold Obligations.AnnouncedPayloadIsAwaitedWithoutLimit
  intro chunks s hwait hport hshort hoperand hroom
  obtain ⟨t, hrun, hpending, -⟩ := run_feedRequests hport hoperand hroom
  rw [feedEach_of_waitingForPayload hwait hshort] at hrun hpending
  exact ⟨t, _, hrun, List.map_map, hpending⟩

end Sys2Proof

namespace Sys2Proof

/-! ### Decoding and encoding are inverse (R50, R55, R56) -/

theorem slice_append_slice (s : List Byte) {i j k : Nat} (hij : i ≤ j) (hjk : j ≤ k) :
    slice s i j ++ slice s j k = slice s i k := by
  have hdrop : s.drop j = (s.drop i).drop (j - i) := by rw [List.drop_drop, Nat.add_sub_cancel' hij]
  rw [slice, slice, slice, hdrop, ← List.take_add]
  congr 1
  omega

theorem slice_zero_append_drop (s : List Byte) (k : Nat) : slice s 0 k ++ s.drop k = s :=
  List.take_append_drop k s

/-- Bytes that begin with a whole header are the frame of their own two fields and of what follows. -/
theorem frameBytes_fields {bytes : List Byte} (hlen : headerLen ≤ bytes.length) (hsync : occursAt bytes 0) :
    frameBytes (lengthField bytes) (checksumField bytes) (bytes.drop headerLen) = bytes := by
  have hfield {i : Nat} (hi : i + 6 ≤ headerLen) : (slice bytes i (i + 6)).length = 6 := by
    rw [length_slice]
    omega
  calc frameBytes (lengthField bytes) (checksumField bytes) (bytes.drop headerLen)
      = slice bytes 0 10 ++ slice bytes 10 16 ++ slice bytes 16 22 ++ bytes.drop headerLen := by
        rw [frameBytes, lengthField, encLe48_le48 (hfield (by decide)), checksumField,
          encLe48_le48 (hfield (by decide)), ← hsync, Nat.zero_add]
    _ = bytes := by
        rw [slice_append_slice _ (by decide) (by decide), slice_append_slice _ (by decide) (by decide),
          slice_zero_append_drop]

/-- The frame decoder takes exactly the bytes that begin with the magic and end where their length field
says (R51, R54, R55). -/
theorem decodeFrame_eq_ok_iff {bytes : List Byte} {i : Instr} :
    decodeFrame bytes = .ok i ↔ occursAt bytes 0 ∧ bytes.length = headerLen + lengthField bytes ∧
      i = .frame (BitVec.ofNat 48 (lengthField bytes)) (BitVec.ofNat 48 (checksumField bytes))
        (bytes.drop headerLen) := by
  constructor
  · intro h
    unfold decodeFrame at h
    split_ifs at h with hheader hmagic hshort hlong
    cases h
    exact ⟨not_not.1 hmagic, by omega, rfl⟩
  · rintro ⟨hsync, hlen, rfl⟩
    have hmagic : slice bytes 0 magicLen = magic := by rwa [occursAt, Nat.zero_add] at hsync
    rw [decodeFrame, if_neg (by omega), if_neg (not_not.2 hmagic), if_neg (by omega), if_neg (by omega)]

theorem decodeFrame_frameBytes {length : U48} (checksum : U48) {payload : List Byte}
    (h : payload.length = length.toNat) :
    decodeFrame (frameBytes length.toNat checksum.toNat payload) = .ok (.frame length checksum payload) := by
  have hL := lengthField_frameBytes checksum.toNat payload [] length.isLt
  have hC := checksumField_frameBytes length.toNat payload [] checksum.isLt
  have hsync := occursAt_frameBytes length.toNat checksum.toNat payload []
  rw [List.append_nil] at hL hC hsync
  refine decodeFrame_eq_ok_iff.2 ⟨hsync, by rw [length_frameBytes, hL, h], ?_⟩
  rw [hL, hC, drop_headerLen_frameBytes, BitVec.ofNat_toNat, BitVec.ofNat_toNat, BitVec.setWidth_eq,
    BitVec.setWidth_eq]

theorem encode_of_decodeFrame {bytes : List Byte} {i : Instr} (h : decodeFrame bytes = .ok i) :
    i.wf = true ∧ formatOf i = .wire ∧ encode i = bytes := by
  obtain ⟨hsync, hlen, rfl⟩ := decodeFrame_eq_ok_iff.1 h
  have hL : (BitVec.ofNat 48 (lengthField bytes)).toNat = lengthField bytes :=
    Nat.mod_eq_of_lt (lengthField_lt bytes)
  have hC : (BitVec.ofNat 48 (checksumField bytes)).toNat = checksumField bytes :=
    Nat.mod_eq_of_lt (le48_lt _)
  refine ⟨?_, rfl, ?_⟩
  · rw [Instr.wf, hL, beq_iff_eq, List.length_drop]
    omega
  · rw [encode, hL, hC, frameBytes_fields (by omega) hsync]

theorem encode_of_decodeCommand {bytes : List Byte} {i : Instr} (h : decodeCommand bytes = .ok i) :
    i.wf = true ∧ formatOf i = .cmd ∧ encode i = bytes := by
  unfold decodeCommand at h
  split at h
  · cases h
  · next code operand =>
    split_ifs at h with h1 h2 h3 h4
    · cases h; exact ⟨rfl, rfl, by rw [h1, encode]⟩
    · cases h; exact ⟨rfl, rfl, by rw [h2, encode]⟩
    · cases h; exact ⟨rfl, rfl, by rw [h3, encode]⟩
    · split at h
      · cases h; exact ⟨rfl, rfl, by rw [h4, encode]⟩
      · cases h

theorem decode_encode {i : Instr} (h : i.wf = true) : decode (formatOf i) (encode i) = .ok i := by
  cases i with
  | crcCompute bytes => rfl
  | encEncode payload => rfl
  | rxFeed chunk => rfl
  | rxClear => rfl
  | frame length checksum payload => exact decodeFrame_frameBytes checksum (beq_iff_eq.1 h)

/-- Settles O15: a command is read back from its code, and a frame from its fields, since a well-formed
one ends where its length field says. -/
theorem decodeOfEncodeIsTheOperation : Obligations.DecodeOfEncodeIsTheOperation := by
  unfold Obligations.DecodeOfEncodeIsTheOperation
  exact fun _ => decode_encode

/-- Settles O16: the codes of the commands are told apart, and the bytes of a frame are put together again
from its fields. -/
theorem encodeOfDecodeIsTheBytes : Obligations.EncodeOfDecodeIsTheBytes := by
  unfold Obligations.EncodeOfDecodeIsTheBytes
  intro format bytes i h
  cases format with
  | cmd => exact encode_of_decodeCommand h
  | wire => exact encode_of_decodeFrame h

/-- Settles O17: every one of these words is the encoding of a well-formed operation. -/
theorem sampleWordsDecode : Obligations.SampleWordsDecode := by
  unfold Obligations.SampleWordsDecode
  exact ⟨decode_encode (i := .crcCompute [0x61]) rfl, decode_encode (i := .encEncode []) rfl,
    decode_encode (i := .rxFeed [0x00, 0x01]) rfl, decode_encode (i := .rxClear) rfl,
    decode_encode (i := .frame 1 0xD3D99E8B [0x41]) rfl⟩

end Sys2Proof

namespace Sys2Proof.Machine

/-! ### The invariant (R25, R44) -/

theorem quiescent_nil : Quiescent [] := .inl (by decide)

theorem within_zero (bound : Option Nat) : within bound 0 = true := by
  cases bound with
  | none => rfl
  | some b => exact decide_eq_true (Nat.zero_le b)

theorem inv_clearInstance (s : State) : Inv s.clearInstance :=
  ⟨quiescent_nil, within_zero _⟩

/-- Whatever the buffer was, a chunk that is taken leaves one that meets the invariant: the loop ends in a
quiescent one, no longer than what the chunk test let in. -/
theorem inv_of_receive {chunk : List Byte} {s t : State} (h : receive chunk s = .next t) : Inv t := by
  obtain ⟨-, hchunk, rfl⟩ := receive_next h
  exact ⟨quiescent_drain _, within_of_le (length_feed_le s.pending chunk) hchunk⟩

theorem inv_exec {i : Instr} {s t : State} (hs : Inv s) (h : exec i s = .next t) : Inv t := by
  obtain ⟨_, -, rfl⟩ | ⟨_, -, rfl⟩ | ⟨-, rfl⟩ | ⟨chunk, -, hreceive⟩ := exec_cases h
  · exact hs
  · exact hs
  · exact inv_clearInstance s
  · exact inv_of_receive hreceive

end Sys2Proof.Machine

namespace Sys2Proof

open Sys2Proof.Machine

/-- Settles O40: an idle step leaves the buffer, a reset empties it, and each operation keeps the
invariant. -/
theorem stepKeepsTheInvariant : Obligations.StepKeepsTheInvariant := by
  unfold Obligations.StepKeepsTheInvariant
  intro s t hs h
  obtain ⟨-, rfl⟩ | ⟨rest, -, rfl⟩ | ⟨_, _, _, rest, i, -, -, -, hexec⟩ := step_cases h
  · exact hs
  · exact inv_clearInstance _
  · exact inv_exec (s := s.setPort rest) hs hexec

/-- Settles O41: the state after reset is one whose buffer has just been cleared. -/
theorem resetMeetsTheInvariant : Obligations.ResetMeetsTheInvariant :=
  inv_clearInstance State.reset

end Sys2Proof

namespace Sys2Proof.Machine

/-! ### What an operation leaves as it was (R17, R138) -/

theorem exec_frame {i : Instr} {s t : State} (h : exec i s = .next t) :
    t.port = s.port ∧ t.params = s.params ∧ (onInstance i = false → t.pending = s.pending) := by
  obtain ⟨_, -, rfl⟩ | ⟨_, -, rfl⟩ | ⟨rfl, rfl⟩ | ⟨chunk, hi, hreceive⟩ := exec_cases h
  · exact ⟨rfl, rfl, fun _ => rfl⟩
  · exact ⟨rfl, rfl, fun _ => rfl⟩
  · exact ⟨rfl, rfl, fun hpure => by cases hpure⟩
  · obtain ⟨-, -, rfl⟩ := receive_next hreceive
    refine ⟨rfl, rfl, fun hpure => ?_⟩
    obtain rfl | ⟨n, c, p, rfl, -⟩ := hi
    · cases hpure
    · cases hpure

/-- Every operation that completes answers, but for `RX.CLEAR` (R56, R100). -/
theorem exec_response_eq_none_iff {i : Instr} {s t : State} (h : exec i s = .next t) :
    t.response = none ↔ i = .rxClear := by
  obtain ⟨_, rfl, rfl⟩ | ⟨_, rfl, rfl⟩ | ⟨rfl, rfl⟩ | ⟨chunk, hi, hreceive⟩ := exec_cases h
  · simp
  · simp
  · simp
  · obtain ⟨-, -, rfl⟩ := receive_next hreceive
    obtain rfl | ⟨n, c, p, rfl, -⟩ := hi
    · simp
    · simp

/-- With no bound every operation completes (R135, R140). -/
theorem exec_of_unbounded {s : State} (h : s.params = Params.unbounded) (i : Instr) :
    ∃ t, exec i s = .next t := by
  have hoperand (bytes : List Byte) : operandFits s.params bytes = true := by rw [h]; rfl
  have hchunk (bytes : List Byte) : chunkFits s.params s.pending bytes = true := by rw [h]; rfl
  cases i with
  | crcCompute bytes => exact ⟨_, exec_crcCompute_of_fits (hoperand _)⟩
  | encEncode payload => exact ⟨_, exec_encEncode_of_fits (hoperand _)⟩
  | rxFeed chunk => exact ⟨_, exec_rxFeed_of_fits (hoperand _) (hchunk _)⟩
  | rxClear => exact ⟨_, rfl⟩
  | frame length checksum payload => exact ⟨_, receive_of_fits (hoperand _) (hchunk _)⟩

/-! ### What an operation is refused for (R4, R44) -/

theorem within_some_eq_false {bound n : Nat} (h : bound < n) : within (some bound) n = false :=
  decide_eq_false (Nat.not_le.2 h)

theorem receive_of_operandTooLong {chunk : List Byte} {s : State} (h : operandFits s.params chunk = false) :
    receive chunk s = .refused .operandTooLong := by
  rw [receive, h, if_neg Bool.false_ne_true]

theorem receive_of_pendingCapExceeded {chunk : List Byte} {s : State}
    (hoperand : operandFits s.params chunk = true) (hchunk : chunkFits s.params s.pending chunk = false) :
    receive chunk s = .refused .pendingCapExceeded := by
  rw [receive, if_pos hoperand, hchunk, if_neg Bool.false_ne_true]

theorem exec_crcCompute_of_operandTooLong {bytes : List Byte} {s : State}
    (h : operandFits s.params bytes = false) : exec (.crcCompute bytes) s = .refused .operandTooLong :=
  if_neg (Bool.eq_false_iff.1 h)

theorem exec_encEncode_of_operandTooLong {payload : List Byte} {s : State}
    (h : operandFits s.params payload = false) : exec (.encEncode payload) s = .refused .operandTooLong :=
  if_neg (Bool.eq_false_iff.1 h)

theorem receive_ne_overlappingOperation (chunk : List Byte) (s : State) :
    receive chunk s ≠ .refused .overlappingOperation := by
  unfold receive
  split_ifs <;> simp

/-- The operation itself does not look at what is in progress (R153): that is the issue's refusal. -/
theorem exec_ne_overlappingOperation (i : Instr) (s : State) :
    exec i s ≠ .refused .overlappingOperation := by
  cases i with
  | crcCompute bytes => simp only [exec, execCrcCompute]; split <;> simp
  | encEncode payload => simp only [exec, execEncEncode]; split <;> simp
  | rxFeed chunk => exact receive_ne_overlappingOperation _ _
  | rxClear => simp [exec, execRxClear]
  | frame length checksum payload => exact receive_ne_overlappingOperation _ _

/-! ### What a step does with the request in front (R38, R58, R150, R153) -/

theorem overlaps_eq_true_iff {i : Instr} {inProgress : List Instr} :
    overlaps i inProgress = true ↔ onInstance i = true ∧ ∃ j ∈ inProgress, onInstance j = true := by
  simp [overlaps]

/-- An operation that is pure, or beside pure ones alone, overlaps none (R40). -/
theorem overlaps_eq_false {i : Instr} {inProgress : List Instr}
    (h : onInstance i = false ∨ ∀ j ∈ inProgress, onInstance j = false) : overlaps i inProgress = false := by
  rw [← Bool.not_eq_true, overlaps_eq_true_iff]
  rintro ⟨hi, j, hj, hbusy⟩
  obtain hpure | hall := h
  · rw [hpure] at hi; cases hi
  · rw [hall j hj] at hbusy; cases hbusy

theorem step_of_idle {s : State} (h : s.port = []) : step s = .next s.respondNothing := by
  rw [step, takeRequest, h]

theorem step_of_reset {s : State} {rest : List PortEvent} (h : s.port = .reset :: rest) :
    step s = .next (s.setPort rest).clearInstance := by
  rw [step, takeRequest, h]

theorem step_of_undecodable {s : State} {format : Format} {bytes : List Byte} {inProgress : List Instr}
    {rest : List PortEvent} {why : DecodeError} (hport : s.port = .issue format bytes inProgress :: rest)
    (hdecode : decode format bytes = .error why) : step s = .refused (.undecodable why) := by
  rw [step, takeRequest, hport]
  simp only [hdecode]

theorem step_of_overlap {s : State} {format : Format} {bytes : List Byte} {inProgress : List Instr}
    {rest : List PortEvent} {i : Instr} (hport : s.port = .issue format bytes inProgress :: rest)
    (hdecode : decode format bytes = .ok i) (hoverlap : overlaps i inProgress = true) :
    step s = .refused .overlappingOperation := by
  rw [step, takeRequest, hport]
  simp only [hdecode]
  exact if_pos hoverlap

theorem step_eq_overlappingOperation_iff {s : State} {format : Format} {bytes : List Byte}
    {inProgress : List Instr} {rest : List PortEvent} {i : Instr}
    (hport : s.port = .issue format bytes inProgress :: rest) (hdecode : decode format bytes = .ok i) :
    step s = .refused .overlappingOperation ↔ overlaps i inProgress = true := by
  refine ⟨fun hrefused => ?_, step_of_overlap hport hdecode⟩
  by_contra hoverlap
  rw [step_of_issue hport hdecode (Bool.eq_false_iff.2 hoverlap)] at hrefused
  exact exec_ne_overlappingOperation i _ hrefused

end Sys2Proof.Machine

namespace Sys2Proof

open Sys2Proof.Machine

theorem decodeCommand_of_reserved {code : Byte} (operand : List Byte)
    (h : code.toNat = 0 ∨ 5 ≤ code.toNat) :
    decodeCommand (code :: operand) = .error (.reservedCode code) := by
  have hne {k : Nat} (hlow : 1 ≤ k) (hhigh : k < 5) : code ≠ BitVec.ofNat 8 k := by
    rintro rfl
    rw [BitVec.toNat_ofNat, Nat.mod_eq_of_lt (by omega)] at h
    omega
  have h1 : code ≠ 0x01 := hne (k := 1) (by decide) (by decide)
  have h2 : code ≠ 0x02 := hne (k := 2) (by decide) (by decide)
  have h3 : code ≠ 0x03 := hne (k := 3) (by decide) (by decide)
  have h4 : code ≠ 0x04 := hne (k := 4) (by decide) (by decide)
  simp only [decodeCommand, if_neg h1, if_neg h2, if_neg h3, if_neg h4]

/-- Settles O18: a code that is none of the four commands' is turned away by the decoder, before anything in
progress is looked at. -/
theorem reservedCodesHaveNoStep : Obligations.ReservedCodesHaveNoStep := by
  unfold Obligations.ReservedCodesHaveNoStep
  intro code operand inProgress rest s hcode hport
  exact step_of_undecodable hport (decodeCommand_of_reserved operand hcode)

/-- What is asked of a request that is to run says that it overlaps none. -/
theorem overlaps_eq_false_of_pure {i : Instr} {inProgress : List Instr}
    (h : ((∃ b, i = .crcCompute b) ∨ ∃ b, i = .encEncode b) ∨
      ∀ j ∈ inProgress, (∃ b, j = .crcCompute b) ∨ ∃ b, j = .encEncode b) :
    overlaps i inProgress = false := by
  simp only [← onInstance_eq_false_iff] at h
  exact overlaps_eq_false h

/-- Settles O19: such an operation overlaps none in progress, so the step is its `exec`. -/
theorem stepRunsTheIssuedOperation : Obligations.StepRunsTheIssuedOperation := by
  unfold Obligations.StepRunsTheIssuedOperation
  intro s format bytes inProgress rest i hport hdecode hpure
  exact step_of_issue hport hdecode (overlaps_eq_false_of_pure hpure)

/-- Settles O20: by the front of the port, which is empty or a reset. -/
theorem stepIdlesAndResets : Obligations.StepIdlesAndResets := by
  unfold Obligations.StepIdlesAndResets
  exact fun s => ⟨step_of_idle, fun rest => step_of_reset⟩

/-- Settles O21: `exec` never gives this refusal, so the step does exactly when the operation overlaps one
in progress. -/
theorem overlappingReceiverOperationIsRefused : Obligations.OverlappingReceiverOperationIsRefused := by
  unfold Obligations.OverlappingReceiverOperationIsRefused
  intro s format bytes inProgress rest i hport hdecode
  simp only [step_eq_overlappingOperation_iff hport hdecode, overlaps_eq_true_iff, onInstance_eq_true_iff]

/-- Settles O22: each operation tests its bound first, and a frame is received as its bytes. -/
theorem finiteBoundsRefuse : Obligations.FiniteBoundsRefuse := by
  unfold Obligations.FiniteBoundsRefuse
  refine fun bytes s => ⟨fun n hmax hlong => ?_, fun n hcap hoperand hlong => ?_⟩
  · have hoperand : operandFits s.params bytes = false := by
      rw [operandFits, hmax, within_some_eq_false hlong]
    refine ⟨exec_crcCompute_of_operandTooLong hoperand, exec_encEncode_of_operandTooLong hoperand,
      receive_of_operandTooLong hoperand, ?_⟩
    rintro length checksum payload rfl
    exact receive_of_operandTooLong hoperand
  · have hchunk : chunkFits s.params s.pending bytes = false := by
      rw [chunkFits, hcap, within_some_eq_false hlong]
    refine ⟨receive_of_pendingCapExceeded hoperand hchunk, ?_⟩
    rintro length checksum payload rfl
    exact receive_of_pendingCapExceeded hoperand hchunk

/-- Settles O23: the request overlaps none in progress, and without bounds its operation completes. -/
theorem everyOperationCompletesByDefault : Obligations.EveryOperationCompletesByDefault := by
  unfold Obligations.EveryOperationCompletesByDefault
  intro s format bytes inProgress rest i hparams hport hdecode hpure
  rw [step_of_issue hport hdecode (overlaps_eq_false_of_pure hpure)]
  exact exec_of_unbounded (s := s.setPort rest) hparams i

/-- Settles O24: the two operations it exempts from writing the buffer are those that do not work on it. -/
theorem operationsLeaveTheRestAlone : Obligations.OperationsLeaveTheRestAlone := by
  unfold Obligations.OperationsLeaveTheRestAlone
  intro i s t h
  obtain ⟨hport, hparams, hpending⟩ := exec_frame h
  exact ⟨hport, hparams, fun hpure => hpending (onInstance_eq_false_iff.2 (exists_or.1 hpure))⟩

/-- Settles O25: an idle step writes no buffer, and neither does an operation that does not work on it. -/
theorem bufferIsWrittenByTheReceiverAlone : Obligations.BufferIsWrittenByTheReceiverAlone := by
  unfold Obligations.BufferIsWrittenByTheReceiverAlone
  intro s t h
  obtain ⟨hport, rfl⟩ | ⟨rest, hport, rfl⟩ |
    ⟨format, bytes, inProgress, rest, i, hport, hdecode, -, hexec⟩ := step_cases h
  · exact ⟨by simp [hport], rfl, fun hne => absurd rfl hne⟩
  · exact ⟨by simp [hport], rfl, fun _ => .inl (by simp [hport])⟩
  · obtain ⟨hportLeft, hparams, hpending⟩ := exec_frame hexec
    refine ⟨by rw [hportLeft, hport]; rfl, hparams, fun hne => .inr ?_⟩
    have hwrites : onInstance i = true := by
      rw [← Bool.not_eq_false]
      exact mt hpending hne
    exact ⟨format, bytes, inProgress, i, by simp [hport], hdecode, onInstance_eq_true_iff.1 hwrites⟩

/-- Settles O26: clearing is the whole of the operation. -/
theorem clearEmptiesTheBuffer : Obligations.ClearEmptiesTheBuffer := by
  unfold Obligations.ClearEmptiesTheBuffer
  exact fun s => rfl

end Sys2Proof

namespace Sys2Proof.Machine

/-! ### The rounds as the spec writes them (R14) -/

/-- The bit a round tests is the number `c & 1` of R14. -/
theorem and_one_ne_zero_iff (c : U32) : c &&& 1 ≠ 0 ↔ c.getLsbD 0 = true := by
  have hlow : c &&& 1 = BitVec.setWidth 32 (BitVec.ofBool (c.getLsbD 0)) :=
    BitVec.and_one_eq_setWidth_ofBool_getLsbD
  rw [hlow]
  cases c.getLsbD 0 <;> decide

theorem crcRound_eq_ite (c : U32) :
    crcRound c = if c &&& 1 ≠ 0 then 0xEDB88320 ^^^ (c >>> 1) else c >>> 1 := by
  simp only [and_one_ne_zero_iff]
  rfl

/-- Bytes that differ at one offset alone are one sequence with that byte set. -/
theorem eq_set_of_getElem?_eq {p q : List Byte} {i : Nat} (hi : i < q.length)
    (hlength : p.length = q.length) (hsame : ∀ j, j ≠ i → p[j]? = q[j]?) : q = p.set i q[i] := by
  apply List.ext_getElem?
  intro j
  by_cases hj : i = j
  · rw [← hj, List.getElem?_set_self (hlength ▸ hi), List.getElem?_eq_getElem hi]
  · rw [List.getElem?_set_ne hj, hsame j (Ne.symm hj)]

end Sys2Proof.Machine

namespace Sys2Proof

open Sys2Proof.Machine

/-- Settles O2: the fields of the reset state are given, and the printed table is the one its rule builds. -/
theorem resetStateIsEmpty : Obligations.ResetStateIsEmpty := by
  unfold Obligations.ResetStateIsEmpty
  exact ⟨rfl, rfl, rfl, rfl, tableRead_eq_tableEntry⟩

/-- Settles O3: the round equation has one solution, the model's round, so the entry is the table's. -/
theorem tableEntryIsEightRounds : Obligations.TableEntryIsEightRounds := by
  unfold Obligations.TableEntryIsEightRounds
  intro n round hround
  obtain rfl : round = crcRound := funext fun c => (hround c).trans (crcRound_eq_ite c).symm
  exact tableRead_eq_tableEntry n

/-- Settles O5: the operand fits, and the answer is the fold that `compute` is. -/
theorem crcComputeAnswersTheChecksum : Obligations.CrcComputeAnswersTheChecksum := by
  unfold Obligations.CrcComputeAnswersTheChecksum
  exact fun bytes s hoperand =>
    ⟨decode_encode (i := .crcCompute bytes) rfl, exec_crcCompute_of_fits hoperand⟩

/-- Settles O8: the low byte's rounds are the table's entry, and the other bits are only shifted. -/
theorem updateIsEightSerialRounds : Obligations.UpdateIsEightSerialRounds := by
  unfold Obligations.UpdateIsEightSerialRounds
  exact crcUpdate_eq_crcRounds

/-- Settles O9: folding over a concatenation is folding over its pieces in turn. -/
theorem checksumMayBeStreamed : Obligations.ChecksumMayBeStreamed := by
  unfold Obligations.ChecksumMayBeStreamed
  exact fun pieces => congrArg crcFinal List.foldl_flatten

/-- Settles O10: `q` is `p` with another byte at `i`, and one changed byte changes the checksum. -/
theorem oneChangedByteChangesTheChecksum : Obligations.OneChangedByteChangesTheChecksum := by
  unfold Obligations.OneChangedByteChangesTheChecksum
  intro p q i hlength hi hdiffer hsame
  have hiq : i < q.length := hlength ▸ hi
  have hbyte : q[i] ≠ p[i] := fun heq => hdiffer (by
    rw [List.getElem?_eq_getElem hi, List.getElem?_eq_getElem hiq, heq])
  rw [eq_set_of_getElem?_eq hiq hlength hsame]
  exact (compute_set_ne hi hbyte).symm

end Sys2Proof

namespace Sys2Proof

/-! ### Occurrences of the magic (R12) -/

/-- The magic has no border: one shifted by fewer than its ten bytes does not meet itself. -/
theorem magic_take_ne_drop {k : Nat} (hpos : 0 < k) (hlt : k < 10) : magic.take k ≠ magic.drop (10 - k) := by
  have hall : ∀ k : Fin 10, 0 < k.val → magic.take k ≠ magic.drop (10 - k) := by decide
  exact hall ⟨k, hlt⟩ hpos

theorem take_slice (s : List Byte) {i j k : Nat} (h : k ≤ j) :
    (slice s i j).take (k - i) = slice s i k := by
  rw [slice, List.take_take, Nat.min_eq_left (by omega), slice]

theorem drop_slice (s : List Byte) {i j k : Nat} (h : i ≤ k) :
    (slice s i j).drop (k - i) = slice s k j := by
  rw [slice, List.drop_take, List.drop_drop, Nat.add_sub_cancel' h, slice]
  congr 1
  omega

/-- Of two occurrences that overlap, the part they share is a border of the magic. -/
theorem occursAt_apart {s : List Byte} {i j : Nat} (hi : occursAt s i) (hj : occursAt s j) (hlt : i < j) :
    i + 10 ≤ j := by
  by_contra hoverlap
  have hfront : magic.take (i + 10 - j) = slice s j (i + 10) := by
    rw [← hj, take_slice s (Nat.add_le_add_right hlt.le 10)]
  have hback : magic.drop (10 - (i + 10 - j)) = slice s j (i + 10) := by
    rw [show 10 - (i + 10 - j) = j - i by omega, ← hi, drop_slice s hlt.le]
  exact magic_take_ne_drop (by omega) (by omega) (hfront.trans hback.symm)

/-- Behind junk the magic occurs where it occurred before. -/
theorem occursAt_append_right (junk rest : List Byte) (k : Nat) :
    occursAt (junk ++ rest) (junk.length + k) ↔ occursAt rest k := by
  rw [← occursAt_drop, List.drop_left]

/-- An occurrence within the front part does not look behind it. -/
theorem occursAt_append_left {front : List Byte} (rest : List Byte) {k : Nat} (h : k + 10 ≤ front.length) :
    occursAt (front ++ rest) k ↔ occursAt front k := by
  rw [occursAt, slice_append_left rest k h]

/-- No occurrence begins in the junk: it would lie in the junk whole, or overlap the one behind it. -/
theorem not_occursAt_of_lt_junk {junk rest : List Byte} (hrest : occursAt rest 0)
    (hjunk : ∀ k, ¬ occursAt junk k) {k : Nat} (hk : k < junk.length) : ¬ occursAt (junk ++ rest) k := by
  intro hoccurs
  have hfit := occursAt_apart hoccurs ((occursAt_append_right junk rest 0).2 hrest) hk
  exact hjunk k ((occursAt_append_left rest hfit).1 hoccurs)

/-- Settles O4: the magic has no border, which keeps occurrences apart, and so none begins in the junk. -/
theorem magicOccurrencesDoNotOverlap : Obligations.MagicOccurrencesDoNotOverlap := by
  unfold Obligations.MagicOccurrencesDoNotOverlap
  refine ⟨fun k => magic_take_ne_drop, fun s i j => occursAt_apart, fun junk rest hrest hjunk => ?_⟩
  exact ⟨(occursAt_append_right junk rest 0).2 hrest, fun k => not_occursAt_of_lt_junk hrest hjunk⟩

end Sys2Proof

namespace Sys2Proof.Machine

/-! ### The scan (R105) -/

/-- The scan begins behind the first byte, so it answers an offset of at least 1. -/
theorem findMagic_some {p : List Byte} {k : Nat} (h : findMagic p = some k) :
    1 ≤ k ∧ occursAt p k ∧ ∀ j, 1 ≤ j → j < k → ¬ occursAt p j := by
  obtain ⟨hk, hoccurs, hleast⟩ := scanFrom_some h
  rw [occursAt_drop, Nat.add_sub_cancel' hk] at hoccurs
  refine ⟨hk, hoccurs, fun j hj hjk => ?_⟩
  have hfree := hleast (j - 1) (by omega)
  rwa [occursAt_drop, Nat.add_sub_cancel' hj] at hfree

theorem not_occursAt_of_findMagic_none {p : List Byte} (h : findMagic p = none) {k : Nat} (hk : 1 ≤ k) :
    ¬ occursAt p k := by
  have hfree := scanFrom_none h (k - 1)
  rwa [occursAt_drop, Nat.add_sub_cancel' hk] at hfree

theorem findMagic_eq_some_iff {p : List Byte} {k : Nat} : findMagic p = some k ↔
    1 ≤ k ∧ occursAt p k ∧ ∀ j, 1 ≤ j → j < k → ¬ occursAt p j := by
  refine ⟨findMagic_some, fun ⟨hk, hoccurs, hleast⟩ => ?_⟩
  cases hfind : findMagic p with
  | none => exact absurd hoccurs (not_occursAt_of_findMagic_none hfind hk)
  | some m =>
    obtain ⟨hm, hoccursM, hleastM⟩ := findMagic_some hfind
    obtain hlt | rfl | hgt := Nat.lt_trichotomy m k
    · exact absurd hoccursM (hleast m hm hlt)
    · rfl
    · exact absurd hoccurs (hleastM k hk hgt)

theorem findMagic_eq_none_iff {p : List Byte} : findMagic p = none ↔ ∀ k, 1 ≤ k → ¬ occursAt p k := by
  refine ⟨fun h k => not_occursAt_of_findMagic_none h, fun hfree => ?_⟩
  cases hfind : findMagic p with
  | none => rfl
  | some k =>
    obtain ⟨hk, hoccurs, -⟩ := findMagic_some hfind
    exact absurd hoccurs (hfree k hk)

/-! ### An iteration out of synchronisation (R106, R107) -/

theorem rxIter_of_desync {p : List Byte} (hlen : headerLen ≤ p.length) (hsync : ¬ occursAt p 0) :
    rxIter p = recover p := by
  rw [rxIter, if_neg (Nat.not_lt.2 hlen), Bool.eq_false_iff.2 (mt (magicAtFront_iff p).1 hsync),
    Bool.not_false, if_pos rfl]

theorem rxIter_of_findMagic_some {p : List Byte} {k : Nat} (hlen : headerLen ≤ p.length)
    (hsync : ¬ occursAt p 0) (hfind : findMagic p = some k) :
    rxIter p = ⟨p.drop k, some (.err (.desyncDiscarded k)), .again⟩ := by
  rw [rxIter_of_desync hlen hsync, recover, hfind]
  rfl

theorem rxIter_of_noMagic {p : List Byte} (hlen : headerLen ≤ p.length) (hfree : ∀ k, ¬ occursAt p k) :
    rxIter p = ⟨p.drop (p.length - tailKeep),
      some (.err (.desyncDiscarded (p.length - tailKeep))), .stop⟩ := by
  rw [rxIter_of_desync hlen (hfree 0), recover, findMagic_eq_none hfree]
  rfl

/-- A discard is reported by RESYNC and DISCARD alone (R102). -/
theorem rxIter_desync_cases {p : List Byte} {n : Nat}
    (h : (rxIter p).out = some (.err (.desyncDiscarded n))) :
    headerLen ≤ p.length ∧ ¬ occursAt p 0 ∧ (rxIter p).buffer = p.drop n ∧
      (findMagic p = some n ∧ (rxIter p).control = .again ∨
        n = p.length - tailKeep ∧ (rxIter p).control = .stop) := by
  obtain ⟨-, e⟩ | ⟨hlen, hsync, k, hfind, e⟩ | ⟨hlen, hsync, -, e⟩ | ⟨-, -, -, e⟩ | ⟨-, -, -, e⟩ |
    ⟨-, -, -, e⟩ := rxIter_cases p <;> rw [e] at h <;> cases h
  · exact ⟨hlen, hsync, by rw [e], .inl ⟨hfind, by rw [e]⟩⟩
  · exact ⟨hlen, hsync, by rw [e], .inr ⟨rfl, by rw [e]⟩⟩

/-- A RESYNC leaves the magic it found at the front (R106). -/
theorem occursAt_zero_of_resync {p : List Byte} {k : Nat} (hagain : (rxIter p).control = .again)
    (h : (rxIter p).out = some (.err (.desyncDiscarded k))) : occursAt (rxIter p).buffer 0 := by
  obtain ⟨-, -, hbuffer, ⟨hfind, -⟩ | ⟨-, hstop⟩⟩ := rxIter_desync_cases h
  · rw [hbuffer, occursAt_drop, Nat.add_zero]
    exact (findMagic_some hfind).2.1
  · rw [hagain] at hstop; cases hstop

/-! ### The bound on the results (R113) -/

/-- Every result costs at least one byte. -/
theorem rxIter_length_add_out_le (p : List Byte) :
    (rxIter p).buffer.length + (rxIter p).out.toList.length ≤ p.length := by
  have hheader : 10 ≤ headerLen := by decide
  obtain ⟨-, e⟩ | ⟨hlen, -, k, hfind, e⟩ | ⟨hlen, -, -, e⟩ | ⟨-, -, -, e⟩ | ⟨hlen, -, -, e⟩ |
    ⟨hlen, -, -, e⟩ := rxIter_cases p
  · simp [e]
  · have hk := (findMagic_some hfind).1
    simp only [e, List.length_drop, Option.toList_some, List.length_singleton]
    omega
  · simp only [e, length_drop_tailKeep hlen, Option.toList_some, List.length_singleton]
    omega
  · simp [e]
  · simp only [e, List.length_drop, Option.toList_some, List.length_singleton]
    omega
  · simp only [e, List.length_drop, Option.toList_some, List.length_singleton]
    omega

theorem length_drain_add_results_le (p : List Byte) :
    (drain p).1.length + (drain p).2.length ≤ p.length := by
  induction p using drain_induction with
  | @stop p q out hit => simpa [hit] using rxIter_length_add_out_le p
  | @again p q out hit ih =>
    have hcost := rxIter_length_add_out_le p
    simp only [hit] at hcost
    simp only [List.length_append]
    omega

/-- Any sufficient fuel gives what `drain` gives, after the results so far (R113). -/
theorem rxLoop_eq_drain {p : List Byte} {fuel : Nat} (results : List Result) (h : p.length + 1 ≤ fuel) :
    rxLoop fuel p results = ((drain p).1, results ++ (drain p).2) := by
  rw [rxLoop_eq_of_fuel results h (Nat.lt_succ_self _), rxLoop_results, drain]

/-! ### A buffer that waits (R25, R122) -/

/-- A quiescent buffer is one on which the loop has nothing to do. -/
theorem drain_of_quiescent {p : List Byte} (h : Quiescent p) : drain p = (p, []) :=
  h.elim drain_of_length_lt drain_of_waitingForPayload

end Sys2Proof.Machine

namespace Sys2Proof

open Sys2Proof.Machine

/-- Settles O29: the scan's answer is one of two, and each says where the magic occurs. -/
theorem scanFindsTheLeastOccurrence : Obligations.ScanFindsTheLeastOccurrence := by
  unfold Obligations.ScanFindsTheLeastOccurrence
  refine fun p => ⟨fun k => findMagic_eq_some_iff.trans ⟨?_, ?_⟩, findMagic_eq_none_iff⟩
  · exact fun ⟨hk, hoccurs, hleast⟩ => ⟨hk, occursAt_le hoccurs, hoccurs, hleast⟩
  · exact fun ⟨hk, _, hoccurs, hleast⟩ => ⟨hk, hoccurs, hleast⟩

/-- Settles O28: the conditions of the six outcomes, with the scan's answer read as the least occurrence. -/
theorem iterationHasSixOutcomes : Obligations.IterationHasSixOutcomes := by
  unfold Obligations.IterationHasSixOutcomes
  refine fun p => ⟨rxIter_of_length_lt, fun hlen hsync => ⟨fun k hk hoccurs hleast => ?_, ?_⟩,
    fun hlen hsync => ⟨fun hshort => ?_, rxIter_of_wholeFrame hsync⟩⟩
  · have hfit : k + 10 ≤ p.length := occursAt_le hoccurs
    exact ⟨rxIter_of_findMagic_some hlen hsync (findMagic_eq_some_iff.2 ⟨hk, hoccurs, hleast⟩), by omega⟩
  · exact rxIter_of_noMagic hlen
  · exact rxIter_of_waitingForPayload ⟨hlen, hsync, hshort⟩

/-- Settles O38: the count is the number of bytes dropped from a buffer of at least 22. -/
theorem discardCountsAreTrue : Obligations.DiscardCountsAreTrue := by
  unfold Obligations.DiscardCountsAreTrue
  intro p n h
  obtain ⟨hlen, -, hbuffer, ⟨hfind, hagain⟩ | ⟨rfl, -⟩⟩ := rxIter_desync_cases h
  · obtain ⟨hpos, hoccurs, -⟩ := findMagic_some hfind
    have hfit := occursAt_le hoccurs
    refine ⟨hpos, by omega, hbuffer, fun hstop => ?_⟩
    rw [hagain] at hstop; cases hstop
  · have hheader : tailKeep + 13 ≤ headerLen := by decide
    refine ⟨by omega, Nat.sub_le _ _, hbuffer, fun _ => ⟨by omega, ?_⟩⟩
    rw [hbuffer, length_drop_tailKeep hlen]

/-- Settles O37: the loop's iterations shorten the buffer, and every result costs a byte. -/
theorem loopEndsWithinItsBound : Obligations.LoopEndsWithinItsBound := by
  unfold Obligations.LoopEndsWithinItsBound
  refine ⟨fun p => rxIter_length_lt_of_again, fun p k hagain hout => ?_,
    fun p fuel results => rxLoop_eq_drain results, fun p chunk => ?_⟩
  · have hsync := occursAt_zero_of_resync hagain hout
    exact ⟨hsync, fun n hagainDesync => (rxIter_desync_cases hagainDesync).2.1 hsync⟩
  · have hbound := length_drain_add_results_le (p ++ chunk)
    rw [List.length_append] at hbound
    exact Nat.le_trans (Nat.le_add_left _ _) hbound

/-- Settles O27: the chunk is appended and the loop runs, and the loop's first iteration is its last or is
followed by the loop on what it left. -/
theorem feedAppendsAndRunsTheLoop : Obligations.FeedAppendsAndRunsTheLoop := by
  unfold Obligations.FeedAppendsAndRunsTheLoop
  refine ⟨fun chunk s hoperand hchunk => ?_, fun p => ?_⟩
  · exact ⟨decode_encode (i := .rxFeed chunk) rfl, exec_rxFeed_of_fits hoperand hchunk⟩
  · rcases hit : rxIter p with ⟨q, out, control⟩
    cases control with
    | stop => exact drain_of_stop hit
    | again => exact drain_of_again hit

/-- A frame is received as its bytes; nothing but the buffer and the response is written. -/
theorem exec_frame_of_fits {length checksum : U48} {payload : List Byte} {s : State}
    (hoperand : operandFits s.params (encode (.frame length checksum payload)) = true)
    (hchunk : chunkFits s.params s.pending (encode (.frame length checksum payload)) = true) :
    exec (.frame length checksum payload) s = .next { s with
      pending := (drain (s.pending ++ encode (.frame length checksum payload))).1
      response := some (.received (drain (s.pending ++ encode (.frame length checksum payload))).2) } :=
  receive_of_fits hoperand hchunk

/-- Settles O34: the bytes are the frame's own. -/
theorem frameIsFedWhole : Obligations.FrameIsFedWhole := by
  unfold Obligations.FrameIsFedWhole
  rintro length checksum payload _ s rfl hoperand hchunk
  exact exec_frame_of_fits hoperand hchunk

/-- Settles O42: the loop has nothing to do on a quiescent buffer, and the empty chunk leaves it one. -/
theorem emptyChunkChangesNothing : Obligations.EmptyChunkChangesNothing := by
  unfold Obligations.EmptyChunkChangesNothing
  intro s hquiescent hoperand hchunk
  rw [exec_rxFeed_of_fits hoperand hchunk, List.append_nil, drain_of_quiescent hquiescent]

/-- Settles O32: the first iteration takes the frame, and the loop goes on with the bytes after it. -/
theorem wholeFrameIsConsumedEitherWay : Obligations.WholeFrameIsConsumedEitherWay := by
  unfold Obligations.WholeFrameIsConsumedEitherWay
  rintro chunk s _ _ _ _ hoperand hchunk rfl hlen hsync rfl hwhole rfl rfl
  rw [exec_rxFeed_of_fits hoperand hchunk, drain_of_wholeFrame hsync hwhole, verdict]

/-- The frame of a well-formed `FRAME`, alone in the buffer. -/
theorem drain_encode_frame {length : U48} (checksum : U48) {payload : List Byte}
    (h : payload.length = length.toNat) :
    drain (encode (.frame length checksum payload)) = ([], [verdict checksum.toNat payload]) := by
  have hdrain := drain_frameBytes_append [] (h ▸ length.isLt) checksum.isLt
  rwa [List.append_nil, drain_nil, h] at hdrain

/-- Settles O33: a checksum has 32 bits, so it is below such a field. -/
theorem highChecksumBytesNeverMatch : Obligations.HighChecksumBytesNeverMatch := by
  unfold Obligations.HighChecksumBytesNeverMatch
  intro length checksum payload s hlength hhigh hempty hoperand hchunk
  have hne : (compute payload).toNat ≠ checksum.toNat :=
    (Nat.lt_of_lt_of_le (compute payload).isLt hhigh).ne
  rw [exec_rxFeed_of_fits hoperand hchunk, hempty, List.nil_append, drain_encode_frame checksum hlength,
    verdict_of_ne hne, ← hempty]

/-- Settles O35: the frame's bytes are the whole buffer, and its one result is the verdict. -/
theorem loneFrameIsJudgedByItsChecksum : Obligations.LoneFrameIsJudgedByItsChecksum := by
  unfold Obligations.LoneFrameIsJudgedByItsChecksum
  intro length checksum payload s hwf hempty hoperand hchunk
  rw [exec_frame_of_fits hoperand hchunk, hempty, List.nil_append,
    drain_encode_frame checksum (beq_iff_eq.1 hwf), verdict, ← hempty]

end Sys2Proof

namespace Sys2Proof.Machine

/-! ### Junk before a frame (R106, R107, R120, R132) -/

/-- Junk with no magic, found before a magic, is what one RESYNC discards (R106). -/
theorem rxIter_of_junk {junk rest : List Byte} (hne : junk ≠ []) (hjunk : ∀ k, ¬ occursAt junk k)
    (hrest : occursAt rest 0) (hlen : headerLen ≤ (junk ++ rest).length) :
    rxIter (junk ++ rest) = ⟨rest, some (.err (.desyncDiscarded junk.length)), .again⟩ := by
  have hpos := List.length_pos_iff.2 hne
  have hfind : findMagic (junk ++ rest) = some junk.length := findMagic_eq_some_iff.2
    ⟨hpos, (occursAt_append_right junk rest 0).2 hrest, fun j _ => not_occursAt_of_lt_junk hrest hjunk⟩
  rw [rxIter_of_findMagic_some hlen (not_occursAt_of_lt_junk hrest hjunk hpos) hfind, List.drop_left]

/-- What is reported of junk that stands before a magic in the buffer; no junk is no error (R120). -/
def junkReport (junk : List Byte) : List Result :=
  if junk = [] then [] else [.err (.desyncDiscarded junk.length)]

theorem drain_of_junk {junk rest : List Byte} (hjunk : ∀ k, ¬ occursAt junk k) (hrest : occursAt rest 0)
    (hlen : headerLen ≤ (junk ++ rest).length) :
    drain (junk ++ rest) = ((drain rest).1, junkReport junk ++ (drain rest).2) := by
  by_cases hne : junk = []
  · rw [junkReport, if_pos hne, hne, List.nil_append, List.nil_append]
  · rw [drain_of_again (rxIter_of_junk hne hjunk hrest hlen), junkReport, if_neg hne]
    rfl

/-- Some results are discards alone, of `n` bytes in all. -/
def DiscardsOf (errors : List Result) (n : Nat) : Prop :=
  (∀ r ∈ errors, ∃ k, r = .err (.desyncDiscarded k)) ∧ discardedCount errors = n

theorem discardsOf_nil : DiscardsOf [] 0 :=
  ⟨fun _ hr => absurd hr List.not_mem_nil, rfl⟩

theorem discardsOf_singleton (n : Nat) : DiscardsOf [.err (.desyncDiscarded n)] n :=
  ⟨fun _ hr => ⟨n, List.mem_singleton.1 hr⟩, rfl⟩

theorem discardedCount_append (first later : List Result) :
    discardedCount (first ++ later) = discardedCount first + discardedCount later := by
  induction first using discardedCount.induct with
  | case1 => simp [discardedCount]
  | case2 n rest ih => simp [discardedCount, ih, Nat.add_assoc]
  | case3 rest ih => simpa [discardedCount] using ih
  | case4 rest ih => simpa [discardedCount] using ih
  | case5 bytes rest ih => simpa [discardedCount] using ih

theorem DiscardsOf.append {first later : List Result} {m n : Nat} (hfirst : DiscardsOf first m)
    (hlater : DiscardsOf later n) : DiscardsOf (first ++ later) (m + n) := by
  refine ⟨fun r hr => (List.mem_append.1 hr).elim (hfirst.1 r) (hlater.1 r), ?_⟩
  rw [discardedCount_append, hfirst.2, hlater.2]

theorem discardsOf_junkReport (junk : List Byte) : DiscardsOf (junkReport junk) junk.length := by
  by_cases hne : junk = []
  · rw [junkReport, if_pos hne, hne]
    exact discardsOf_nil
  · rw [junkReport, if_neg hne]
    exact discardsOf_singleton _

/-- Frames begin with a magic and have a header's worth of bytes. -/
theorem frames_begin {payloads : List (List Byte)} (hne : payloads ≠ []) :
    occursAt (payloads.map frameOf).flatten 0 ∧ headerLen ≤ (payloads.map frameOf).flatten.length := by
  cases payloads with
  | nil => exact absurd rfl hne
  | cons payload payloads =>
    rw [List.map_cons, List.flatten_cons]
    refine ⟨occursAt_frameBytes _ _ _ _, ?_⟩
    rw [List.length_append, frameOf, length_frameBytes]
    omega

theorem drain_junk_frames {junk : List Byte} {payloads : List (List Byte)} (hne : payloads ≠ [])
    (hlength : ∀ payload ∈ payloads, payload.length < 2 ^ 48) (hjunk : ∀ k, ¬ occursAt junk k) :
    drain (junk ++ (payloads.map frameOf).flatten) = ([], junkReport junk ++ payloads.map .ok) := by
  obtain ⟨hsync, hheader⟩ := frames_begin hne
  have hlen : headerLen ≤ (junk ++ (payloads.map frameOf).flatten).length := by
    rw [List.length_append]
    omega
  rw [drain_of_junk hjunk hsync hlen, drain_frames hlength]

/-- Any front part of junk and then frames. While it ends before the first magic is whole, only junk is
discarded, and the rest of the junk still stands before the frames; from then on the junk is behind, and
the frames that have come whole are delivered. -/
theorem drain_front_of_junk {junk p rest : List Byte} {payloads : List (List Byte)} (hne : payloads ≠ [])
    (hlength : ∀ payload ∈ payloads, payload.length < 2 ^ 48) (hjunk : ∀ k, ¬ occursAt junk k)
    (hstream : p ++ rest = junk ++ (payloads.map frameOf).flatten) :
    (∃ errors n junk' q, drain p = (q, errors) ∧ DiscardsOf errors n ∧ n + junk'.length = junk.length ∧
      (∀ k, ¬ occursAt junk' k) ∧ q ++ rest = junk' ++ (payloads.map frameOf).flatten) ∨
    (∃ delivered remaining q, payloads = delivered ++ remaining ∧
      drain p = (q, junkReport junk ++ delivered.map .ok) ∧ drain q = (q, []) ∧
      q ++ rest = (remaining.map frameOf).flatten) := by
  obtain ⟨hsync, -⟩ := frames_begin hne
  by_cases hheader : p.length < headerLen
  · exact .inl ⟨[], 0, junk, p, drain_of_length_lt hheader, discardsOf_nil, Nat.zero_add _, hjunk, hstream⟩
  have hlen : 22 ≤ p.length := Nat.le_of_not_lt hheader
  by_cases hmagic : p.length < junk.length + 10
  · have hfree : ∀ k, ¬ occursAt p k := fun k hk => by
      have hfit : k + 10 ≤ p.length := occursAt_le hk
      have hwhole := (occursAt_append_left rest hfit).2 hk
      rw [hstream] at hwhole
      exact not_occursAt_of_lt_junk hsync hjunk (by omega) hwhole
    have hdrop : p.length - 9 ≤ junk.length := by omega
    refine .inl ⟨_, _, junk.drop (p.length - 9), _, drain_of_stop (rxIter_of_noMagic hlen hfree),
      discardsOf_singleton _, ?_, fun k => ?_, ?_⟩
    · rw [List.length_drop, Nat.add_sub_cancel' hdrop]
    · rw [occursAt_drop]
      exact hjunk _
    · rw [← List.drop_append_of_le_length (Nat.sub_le _ _), hstream, List.drop_append_of_le_length hdrop]
  · obtain ⟨p', rfl⟩ : junk <+: p :=
      List.prefix_of_prefix_length_le (List.prefix_append _ _) ⟨rest, hstream⟩ (by omega)
    rw [List.append_assoc] at hstream
    have hframes := List.append_cancel_left hstream
    rw [List.length_append] at hmagic
    rw [← hframes, occursAt_append_left rest (by omega)] at hsync
    obtain ⟨delivered, remaining, q, hsplit, hdrain, hkept, hrest⟩ := drain_front_of_frames hlength hframes
    refine .inr ⟨delivered, remaining, q, hsplit, ?_, hkept, hrest⟩
    rw [drain_of_junk hjunk hsync hlen, hdrain]

/-- However junk and frames are cut, the chunks discard the junk and then give every payload (R161). -/
theorem feedEach_junk_frames {junk p : List Byte} {payloads chunks : List (List Byte)} (hne : payloads ≠ [])
    (hlength : ∀ payload ∈ payloads, payload.length < 2 ^ 48) (hjunk : ∀ k, ¬ occursAt junk k)
    (hkept : Quiescent p) (hstream : p ++ chunks.flatten = junk ++ (payloads.map frameOf).flatten) :
    (feedEach p chunks).1 = [] ∧
      ∃ errors, (feedEach p chunks).2.flatten = errors ++ payloads.map .ok ∧
        DiscardsOf errors junk.length := by
  induction chunks generalizing p junk with
  | nil =>
    rw [List.flatten_nil, List.append_nil] at hstream
    have hdrain := drain_of_quiescent hkept
    rw [hstream, drain_junk_frames hne hlength hjunk, ← hstream] at hdrain
    obtain ⟨hp, hresults⟩ := Prod.mk.inj hdrain
    exact ⟨hp.symm, junkReport junk, hresults.symm, discardsOf_junkReport junk⟩
  | cons chunk chunks ih =>
    rw [List.flatten_cons, ← List.append_assoc] at hstream
    obtain ⟨errors, n, junk', q, hdrain, herrors, hcount, hfree, hrest⟩ |
      ⟨delivered, remaining, q, rfl, hdrain, hkeptq, hrest⟩ := drain_front_of_junk hne hlength hjunk hstream
    · have hfeed : feed p chunk = (q, errors) := hdrain
      have hquiescent : Quiescent q := by simpa only [hdrain] using quiescent_drain (p ++ chunk)
      obtain ⟨hempty, errors', hresults, herrors'⟩ := ih hfree hquiescent hrest
      simp only [feedEach, hfeed]
      refine ⟨hempty, errors ++ errors', ?_, hcount ▸ herrors.append herrors'⟩
      rw [List.flatten_cons, hresults, List.append_assoc]
    · have hfeed : feed p chunk = (q, junkReport junk ++ delivered.map .ok) := hdrain
      obtain ⟨hempty, hresults⟩ :=
        feedEach_frames (fun payload hmem => hlength payload (List.mem_append_right _ hmem)) hkeptq hrest
      simp only [feedEach, hfeed]
      refine ⟨hempty, junkReport junk, ?_, discardsOf_junkReport junk⟩
      rw [List.flatten_cons, hresults, List.map_append, List.append_assoc]

/-- Bytes without a zero hold no magic, whose first byte is one. -/
theorem not_occursAt_of_zero_notMem {s : List Byte} (h : 0x00 ∉ s) (k : Nat) : ¬ occursAt s k := by
  intro hoccurs
  have hzero : (0x00 : Byte) ∈ slice s k (k + magicLen) := by
    rw [hoccurs]
    decide
  exact h (List.mem_of_mem_drop (List.mem_of_mem_take hzero))

/-- The thirty bytes 40 to 5D of R121. -/
def bytes40to5D : List Byte := (List.range 30).map fun k => BitVec.ofNat 8 (0x40 + k)

end Sys2Proof.Machine

namespace Sys2Proof

open Sys2Proof.Machine

/-- Settles O46: the first iteration discards the junk, if there is any, and the next takes the frame. -/
theorem frameAfterJunkIsFound : Obligations.FrameAfterJunkIsFound := by
  unfold Obligations.FrameAfterJunkIsFound
  intro junk payload s hjunk hlength hempty hoperand hchunk
  have hdrain : drain (s.pending ++ (junk ++ frameOf payload))
      = (s.pending, junkReport junk ++ [.ok payload]) := by
    rw [hempty, List.nil_append]
    simpa using drain_junk_frames (payloads := [payload]) (by simp) (by simpa using hlength) hjunk
  have hreport : junkReport junk ++ [.ok payload]
      = if junk = [] then [.ok payload] else [.err (.desyncDiscarded junk.length), .ok payload] :=
    apply_ite (· ++ [Result.ok payload]) _ _ _
  rw [exec_rxFeed_of_fits hoperand hchunk, hdrain, hreport]

/-- Settles O47: the run is the chunks fed one after the other, and an empty buffer is the front of any
stream of junk and a frame. -/
theorem frameAfterJunkSurvivesAnyChunking : Obligations.FrameAfterJunkSurvivesAnyChunking := by
  unfold Obligations.FrameAfterJunkSurvivesAnyChunking
  intro junk payload chunks s hjunk hlength hstream hempty hport hoperand hroom
  obtain ⟨t, hrun, hpending, -⟩ := run_feedRequests hport hoperand (hempty ▸ hroom)
  rw [hempty] at hrun hpending
  obtain ⟨hnothing, errors, hresults, hdiscards, hcount⟩ :=
    feedEach_junk_frames (p := []) (payloads := [payload]) (chunks := chunks) (by simp)
      (by simpa using hlength) hjunk quiescent_nil (by simpa using hstream)
  exact ⟨t, _, errors, hrun, hpending.trans hnothing, (receivedOf_map_received _).trans hresults,
    hdiscards, hcount⟩

/-- Settles O48: in one chunk a RESYNC discards all thirty bytes; in two a DISCARD drops 21 of them, and a
RESYNC the nine it kept. -/
theorem errorsDependOnTheChunking : Obligations.ErrorsDependOnTheChunking := by
  unfold Obligations.ErrorsDependOnTheChunking
  have hjunk : ∀ k, ¬ occursAt bytes40to5D k := not_occursAt_of_zero_notMem (by decide)
  have htail : ∀ k, ¬ occursAt (bytes40to5D.drop 21) k := not_occursAt_of_zero_notMem (by decide)
  have hframe {junk : List Byte} (hfree : ∀ k, ¬ occursAt junk k) :
      drain (junk ++ frameOf [0x41]) = ([], junkReport junk ++ [.ok [0x41]]) := by
    simpa using drain_junk_frames (payloads := [[0x41]]) (by simp) (by simp) hfree
  refine ⟨bytes40to5D, bytes40to5D.drop 21, ?_, ?_, ?_⟩
  · exact congrArg Prod.snd (hframe hjunk)
  · exact drain_of_stop (rxIter_of_noMagic (by decide) hjunk)
  · exact hframe htail

end Sys2Proof

namespace Sys2Proof.Machine

/-! ### Runs (R165) -/

/-- A run of a step and more takes that step first. -/
theorem run_succ_cases {n : Nat} {s t : State} {responses : List Response}
    (h : run (n + 1) s = some (t, responses)) :
    ∃ u later, step s = .next u ∧ run n u = some (t, later) ∧ responses = u.response.toList ++ later := by
  simp only [run] at h
  split at h
  · next u hstep =>
    split at h
    · next later hrun =>
      obtain ⟨rfl, rfl⟩ := Prod.mk.inj (Option.some.inj h)
      exact ⟨u, later, hstep, hrun, rfl⟩
    · cases h
  · cases h
  · cases h

/-- A run may go on from where another ended. -/
theorem run_add {n m : Nat} {s t u : State} {first later : List Response}
    (hfirst : run n s = some (t, first)) (hlater : run m t = some (u, later)) : run (n + m) s = some (u, first ++ later) := by
  induction n generalizing s first with
  | zero =>
    obtain ⟨rfl, rfl⟩ := Prod.mk.inj (Option.some.inj hfirst)
    rwa [Nat.zero_add, List.nil_append]
  | succ n ih =>
    obtain ⟨v, rest, hstep, hrun, rfl⟩ := run_succ_cases hfirst
    rw [Nat.add_right_comm, List.append_assoc]
    exact run_succ_of_next hstep (ih hrun)

/-- Steps with nothing asked for answer nothing and leave the block as it is (R136). -/
theorem run_of_idle (m : Nat) {s : State} (h : s.port = []) :
    ∃ u, run m s = some (u, []) ∧ u.pending = s.pending ∧ u.params = s.params ∧ u.port = [] := by
  induction m generalizing s with
  | zero => exact ⟨s, rfl, rfl, rfl, h⟩
  | succ m ih =>
    obtain ⟨u, hrun, hkept⟩ := ih (s := s.respondNothing) h
    exact ⟨u, run_succ_of_next (step_of_idle h) hrun, hkept⟩

/-- The response of an operation that completes, counted. -/
theorem length_exec_response {i : Instr} {s t : State} (h : exec i s = .next t) :
    t.response.toList.length = if i = .rxClear then 0 else 1 := by
  have hnone := exec_response_eq_none_iff h
  cases hresponse : t.response with
  | none => rw [if_pos (hnone.1 hresponse)]; rfl
  | some r =>
    rw [hresponse] at hnone
    rw [if_neg fun hclear => Option.some_ne_none r (hnone.2 hclear)]
    rfl

/-- The requests of a host that issues these operations one after the other. -/
def issueRequests (operations : List Instr) : List PortEvent :=
  operations.map fun i => .issue (formatOf i) (encode i) []

/-- The operations at the port run one after the other, each with its response. -/
theorem run_operations {operations : List Instr} {s : State} (hparams : s.params = Params.unbounded)
    (hwf : ∀ i ∈ operations, i.wf = true)
    (hport : s.port = issueRequests operations) :
    ∃ t responses, run operations.length s = some (t, responses) ∧ t.port = [] ∧
      responses.length = (operations.filter fun i => i ≠ .rxClear).length := by
  induction operations generalizing s with
  | nil => exact ⟨s, [], rfl, hport, rfl⟩
  | cons i operations ih =>
    obtain ⟨hfirst, hlater⟩ := List.forall_mem_cons.1 hwf
    have hstep := step_of_issue hport (decode_encode hfirst) (overlaps_eq_false (.inr (by simp)))
    obtain ⟨u, hexec⟩ := exec_of_unbounded (s := s.setPort (issueRequests operations)) hparams i
    obtain ⟨hportLeft, hparamsLeft, -⟩ := exec_frame hexec
    obtain ⟨t, responses, hrun, hempty, hcount⟩ := ih (hparamsLeft.trans hparams) hlater hportLeft
    refine ⟨t, _, run_succ_of_next (hstep.trans hexec) hrun, hempty, ?_⟩
    rw [List.length_append, length_exec_response hexec, hcount]
    by_cases hclear : i = .rxClear
    · simp [hclear]
    · simp [hclear, Nat.add_comm]

end Sys2Proof.Machine

namespace Sys2Proof

open Sys2Proof.Machine

/-- Settles O50: the further steps are a run from a state with nothing at its port. -/
theorem idleStepsAddNothingToARun : Obligations.IdleStepsAddNothingToARun := by
  unfold Obligations.IdleStepsAddNothingToARun
  intro n m s t responses hrun hempty
  obtain ⟨u, hidle, hkept⟩ := run_of_idle m hempty
  exact ⟨u, by rw [run_add hrun hidle, List.append_nil], hkept⟩

/-- Settles O51: each operation is read back from its bytes, overlaps none, completes and answers, but for
`RX.CLEAR`. -/
theorem runGivesOneResponsePerOperation : Obligations.RunGivesOneResponsePerOperation := by
  unfold Obligations.RunGivesOneResponsePerOperation
  exact fun operations s => run_operations

end Sys2Proof
